-- ==== Sys2Proof/Word.lean ====
section
/-! DEFINITION. Word.lean: the word types of the machine and their plainest arithmetic. -/

namespace Sys2Proof

/-- A 64-bit System register, general register or address (R10, R30). -/
abbrev Word := BitVec 64

/-- One byte of memory. -/
abbrev Byte := BitVec 8

/-- An A64 instruction word (R51). -/
abbrev InstrWord := BitVec 32

/-- A general register number, the 5-bit field `Rt` (R30, R52). -/
abbrev RegNum := BitVec 5

/-- The word is a multiple of `n`. -/
def Word.isMultipleOf (w : Word) (n : Nat) : Bool := w.toNat % n == 0

end Sys2Proof
end

