-- ==== Sys2Proof/Config.lean ====
section
/-! DEFINITION. Config.lean: what one piece of hardware fixes (00_scope.md R2 and the open parameters of
92_eei_decisions.md), the configuration `State.reset` stands on, and the free values of the model.
The configuration is plain data held in `State` and written by no step, so a statement about every state is a
statement about every configuration (assumption 1). -/

namespace Sys2Proof

/-- The Exception levels (R99); a higher number is more privileged. -/
inductive EL where
  | el0 | el1 | el2 | el3
  deriving DecidableEq, Repr

/-- The number of an Exception level. -/
def EL.rank : EL → Nat
  | .el0 => 0
  | .el1 => 1
  | .el2 => 2
  | .el3 => 3

/-- An Exception level an exception can be taken to: each has its own ESR, ELR, SPSR and VBAR (R97). -/
inductive TargetEL where
  | el1 | el2 | el3
  deriving DecidableEq, Repr

/-- The Exception level of a target. -/
def TargetEL.level : TargetEL → EL
  | .el1 => .el1
  | .el2 => .el2
  | .el3 => .el3

/-- The part of PSTATE the spec names: the Exception level and the execution state (R3, R31), and whether
interrupts are masked (R97: entry "masks interrupts"). -/
structure PState where
  el : EL
  aarch64 : Bool
  intMasked : Bool
  deriving DecidableEq, Repr

/-- The 14 named fields of HFGWTR2_EL2, bit 14 down to bit 0 (R13 to R26). The field `nT` arms the trap of the
writes of the target register `T` (R34), so this type also names the 14 target registers. -/
inductive TrapField where
  | nACTLRALIAS | nACTLRMASK | nTCR2ALIAS | nTCRALIAS | nSCTLR2ALIAS | nSCTLRALIAS | nCPACRALIAS
  | nTCR2MASK | nTCRMASK | nSCTLR2MASK | nSCTLRMASK | nCPACRMASK | nRCWSMASK | nPFAR
  deriving DecidableEq, Repr

/-- The name of a System register in an MRS or MSR: the five fields of R50, with their widths. -/
structure SysRegEnc where
  op0 : BitVec 2
  op1 : BitVec 3
  crn : BitVec 4
  crm : BitVec 4
  op2 : BitVec 3
  deriving DecidableEq, Repr

/-- The five fields in the order of R51, bits [20:5] of the word. -/
def SysRegEnc.packed (e : SysRegEnc) : BitVec 16 :=
  e.op0 ++ e.op1 ++ e.crn ++ e.crm ++ e.op2

/-- `layout(MSRR)`, OPEN (R57): the fixed bits of the word outside the register's tuple and outside `Rt`, where the
packed tuple starts and where the 5-bit `Rt` starts (assumption 4). -/
structure MsrrLayout where
  opcode : BitVec 32
  encLsb : Nat
  rtLsb : Nat
  deriving DecidableEq, Repr

/-- `RES0_POLICY` (R2, R12, decision D2). -/
inductive Res0Policy where
  | refuse | razWi | stored
  deriving DecidableEq, Repr

/-- `FGTEN2_ZERO_MEANS` (R2, R27, decision D5). -/
inductive FgtEn2Zero where
  | treatedAsZero | noTrap
  deriving DecidableEq, Repr

/-- The optional mapping of `NVMem` onto byte memory: `NVBase` and `NVMemBigEndian` (R41, R42). -/
structure NvMap where
  base : Word
  bigEndian : Bool
  deriving DecidableEq, Repr

/-- One piece of hardware (R2, and the open parameters collected in 92_eei_decisions.md). -/
structure Config where
  featFGT2 : Bool
  featAA64 : Bool
  featSRMASK : Bool
  featTHE : Bool
  featPFAR : Bool
  haveEL2 : Bool
  haveEL3 : Bool
  res0Policy : Res0Policy
  fgtEn2ZeroMeans : FgtEn2Zero
  /-- `match_MRS` (R51, decision D11): the word of `MRS X0, HFGWTR2_EL2`. -/
  matchMRS : InstrWord
  /-- `match_MSR` (R51, decision D11): the word of `MSR HFGWTR2_EL2, X0`. -/
  matchMSR : InstrWord
  /-- `enc(T)` for each target register that has one supplied; OPEN where none is listed (R57). -/
  enc : List (TrapField × SysRegEnc)
  /-- `layout(MSRR)`; OPEN where it is `none` (R57). -/
  msrr : Option MsrrLayout
  /-- `none`: `NVMem[0x2C8]` is the abstract cell; `some m`: it lies in byte memory (R41, decision D6). -/
  nvMap : Option NvMap
  /-- The IMPLEMENTATION DEFINED reset address (R110). -/
  resetAddr : Word
  deriving DecidableEq, Repr

/-- `HighestEL`, derived from `HaveEL2` and `HaveEL3` as R2 says. -/
def Config.highestEL (c : Config) : EL :=
  if c.haveEL3 then .el3 else if c.haveEL2 then .el2 else .el1

/-- The Exception level is implemented; EL0 and EL1 always are (R99). -/
def Config.implements (c : Config) : EL → Bool
  | .el0 => true
  | .el1 => true
  | .el2 => c.haveEL2
  | .el3 => c.haveEL3

/-- The register is present: FEAT_FGT2 and FEAT_AA64 are implemented (R10). -/
def Config.present (c : Config) : Bool := c.featFGT2 && c.featAA64

/-- The encoding supplied for a target register, if any (R57). -/
def Config.encOf (c : Config) (f : TrapField) : Option SysRegEnc := c.enc.lookup f

/-- The configuration of `State.reset` (assumption 1): that of the spec's program P1 (95_test_vectors.md section 9),
every feature implemented, EL2 and no EL3, each open parameter at the default that 92_eei_decisions.md gives it, no
encoding supplied for the 15 trapped writes. -/
def Config.default : Config where
  featFGT2 := true
  featAA64 := true
  featSRMASK := true
  featTHE := true
  featPFAR := true
  haveEL2 := true
  haveEL3 := false
  res0Policy := .refuse
  fgtEn2ZeroMeans := .treatedAsZero
  matchMRS := 0xD53C3160#32
  matchMSR := 0xD51C3160#32
  enc := []
  msrr := none
  nvMap := none
  resetAddr := 0#64

/-- FREE VALUE. The IL bit and the ISS of a syndrome the spec gives no layout for: an UNDEFINED instruction (R90)
and the class `0x14` (R93). Applied to the counter `State.free` (assumption 18). -/
opaque Config.freeIlIss : Nat → BitVec 26

/-- FREE VALUE. The packed tuple of a target register whose encoding is OPEN (R57), as the ISS of its trap shows it
(assumption 18). -/
opaque Config.openTuple : TrapField → BitVec 16

/-- FREE VALUE. The offset from VBAR_ELx, in instruction words, that an exception entry branches to: R97 says it is
"chosen by the source level and state" and gives no number (assumption 17). -/
opaque Config.vectorIndex : PState → TargetEL → BitVec 62

end Sys2Proof
end

