-- ==== Sys2Proof/Syntax.lean ====
section
/-! DEFINITION. Syntax.lean: the instructions, one constructor per row of spec/opcode_table.json, in the table's
order (30_encoding.md R58). The operand of each is the register number `t` of `<Xt>` (R52, R56). -/

namespace Sys2Proof

/-- The 17 instructions the spec gives semantics to (R58). -/
inductive Instr where
  /-- `MRS <Xt>, HFGWTR2_EL2` (R61). -/
  | mrsHFGWTR2 (t : RegNum)
  /-- `MSR HFGWTR2_EL2, <Xt>` (R62). -/
  | msrHFGWTR2 (t : RegNum)
  /-- `MSR ACTLRALIAS_EL1, <Xt>` (R71). -/
  | msrACTLRALIAS (t : RegNum)
  /-- `MSR ACTLRMASK_EL1, <Xt>` (R72). -/
  | msrACTLRMASK (t : RegNum)
  /-- `MSR TCR2ALIAS_EL1, <Xt>` (R73). -/
  | msrTCR2ALIAS (t : RegNum)
  /-- `MSR TCRALIAS_EL1, <Xt>` (R74). -/
  | msrTCRALIAS (t : RegNum)
  /-- `MSR SCTLR2ALIAS_EL1, <Xt>` (R75). -/
  | msrSCTLR2ALIAS (t : RegNum)
  /-- `MSR SCTLRALIAS_EL1, <Xt>` (R76). -/
  | msrSCTLRALIAS (t : RegNum)
  /-- `MSR CPACRALIAS_EL1, <Xt>` (R77). -/
  | msrCPACRALIAS (t : RegNum)
  /-- `MSR TCR2MASK_EL1, <Xt>` (R78). -/
  | msrTCR2MASK (t : RegNum)
  /-- `MSR TCRMASK_EL1, <Xt>` (R79). -/
  | msrTCRMASK (t : RegNum)
  /-- `MSR SCTLR2MASK_EL1, <Xt>` (R80). -/
  | msrSCTLR2MASK (t : RegNum)
  /-- `MSR SCTLRMASK_EL1, <Xt>` (R81). -/
  | msrSCTLRMASK (t : RegNum)
  /-- `MSR CPACRMASK_EL1, <Xt>` (R82). -/
  | msrCPACRMASK (t : RegNum)
  /-- `MSR RCWSMASK_EL1, <Xt>` (R83). -/
  | msrRCWSMASK (t : RegNum)
  /-- `MSRR RCWSMASK_EL1, <Xt>, <Xt+1>` (R84). -/
  | msrrRCWSMASK (t : RegNum)
  /-- `MSR PFAR_EL1, <Xt>` (R85). -/
  | msrPFAR (t : RegNum)
  deriving DecidableEq, Repr

/-- The register number of the operand `<Xt>` (R52). -/
def Instr.rt : Instr → RegNum
  | .mrsHFGWTR2 t => t
  | .msrHFGWTR2 t => t
  | .msrACTLRALIAS t => t
  | .msrACTLRMASK t => t
  | .msrTCR2ALIAS t => t
  | .msrTCRALIAS t => t
  | .msrSCTLR2ALIAS t => t
  | .msrSCTLRALIAS t => t
  | .msrCPACRALIAS t => t
  | .msrTCR2MASK t => t
  | .msrTCRMASK t => t
  | .msrSCTLR2MASK t => t
  | .msrSCTLRMASK t => t
  | .msrCPACRMASK t => t
  | .msrRCWSMASK t => t
  | .msrrRCWSMASK t => t
  | .msrPFAR t => t

/-- The field of HFGWTR2_EL2 that arms the instruction's trap; none for the two accesses (R88). -/
def Instr.trapField : Instr → Option TrapField
  | .mrsHFGWTR2 _ => none
  | .msrHFGWTR2 _ => none
  | .msrACTLRALIAS _ => some .nACTLRALIAS
  | .msrACTLRMASK _ => some .nACTLRMASK
  | .msrTCR2ALIAS _ => some .nTCR2ALIAS
  | .msrTCRALIAS _ => some .nTCRALIAS
  | .msrSCTLR2ALIAS _ => some .nSCTLR2ALIAS
  | .msrSCTLRALIAS _ => some .nSCTLRALIAS
  | .msrCPACRALIAS _ => some .nCPACRALIAS
  | .msrTCR2MASK _ => some .nTCR2MASK
  | .msrTCRMASK _ => some .nTCRMASK
  | .msrSCTLR2MASK _ => some .nSCTLR2MASK
  | .msrSCTLRMASK _ => some .nSCTLRMASK
  | .msrCPACRMASK _ => some .nCPACRMASK
  | .msrRCWSMASK _ => some .nRCWSMASK
  | .msrrRCWSMASK _ => some .nRCWSMASK
  | .msrPFAR _ => some .nPFAR

end Sys2Proof
end

