-- ==== Sys2Proof/WellFormed.lean ====
section
/-! DEFINITION. WellFormed.lean: the checks on instructions and on the data of a configuration. That no word carries
two meanings under a configuration is checked in Decode.lean (`Config.unambiguous`). -/

namespace Sys2Proof

/-- The operand is one the instruction's syntax admits: the MSRR names `X(t)` and `X(t+1)` with `t` even (R56);
every 5-bit number is a register number of an MRS or MSR, 31 the zero register (R30). -/
def Instr.wf : Instr → Bool
  | .mrsHFGWTR2 _ => true
  | .msrHFGWTR2 _ => true
  | .msrACTLRALIAS _ => true
  | .msrACTLRMASK _ => true
  | .msrTCR2ALIAS _ => true
  | .msrTCRALIAS _ => true
  | .msrSCTLR2ALIAS _ => true
  | .msrSCTLRALIAS _ => true
  | .msrCPACRALIAS _ => true
  | .msrTCR2MASK _ => true
  | .msrTCRMASK _ => true
  | .msrSCTLR2MASK _ => true
  | .msrSCTLRMASK _ => true
  | .msrCPACRMASK _ => true
  | .msrRCWSMASK _ => true
  | .msrrRCWSMASK t => !t.getLsbD 0
  | .msrPFAR _ => true

/-- In the register-move format op0 is `0b10` or `0b11`: bit 20 of the word is 1 (R51). -/
def SysRegEnc.wf (e : SysRegEnc) : Bool := e.op0.getLsbD 1

/-- `NVBase` is a multiple of 8 (R43, decision D8). -/
def NvMap.wf (m : NvMap) : Bool := m.base.isMultipleOf 8

/-- The data of a configuration: each supplied tuple fits the format (R51), `NVBase` is aligned where NVMem is mapped
(R43), and the reset address is that of an instruction word (R51). -/
def Config.wf (c : Config) : Bool :=
  c.enc.all (fun p => p.2.wf) && c.nvMap.all NvMap.wf && c.resetAddr.isMultipleOf 4

end Sys2Proof
end

