-- ==== Sys2Proof/Decode.lean ====
section
/-! DEFINITION. Decode.lean: the encodings (30_encoding.md), the decoder, total on any bytes, and the encoder. The
words of the two accesses are R51's; the words of the 15 trapped writes come from the configuration's `enc(T)` and
`layout(MSRR)`, and there is none where these are OPEN (R57). -/

namespace Sys2Proof

/-- The tuple of HFGWTR2_EL2 (R50). -/
def hfgwtr2Enc : SysRegEnc := ⟨0b11#2, 0b100#3, 0b0011#4, 0b0001#4, 0b011#3⟩

/-- What an instruction's words have in common: `w` is the instruction when `w AND mask == fixed`; the 5-bit `Rt`
starts at bit `rtLsb` (R51). -/
structure Pattern where
  fixed : InstrWord
  mask : InstrWord
  rtLsb : Nat
  deriving DecidableEq, Repr

/-- The mask of a word whose only operand is a 5-bit `Rt` at bit `k`: every other bit is fixed. -/
def rtMask (k : Nat) : InstrWord := ~~~(0x1F#32 <<< k)

/-- The fixed bits of `MSR <reg>, <Xt>` (R51, L = 0): `1101010100 0` and the packed tuple at [20:5]. -/
def msrWord (e : SysRegEnc) : InstrWord := 0b1101010100#10 ++ 0b0#1 ++ e.packed ++ 0#5

/-- The fixed bits of `MRS <Xt>, <reg>` (R51, L = 1). -/
def mrsWord (e : SysRegEnc) : InstrWord := 0b1101010100#10 ++ 0b1#1 ++ e.packed ++ 0#5

/-- The pattern of an MSR of the register named `e`. -/
def msrPattern (e : SysRegEnc) : Pattern := ⟨msrWord e, rtMask 0, 0⟩

/-- The pattern of an MSRR of the register named `e` under `layout(MSRR)` (R57, assumption 4). -/
def msrrPattern (l : MsrrLayout) (e : SysRegEnc) : Pattern :=
  ⟨l.opcode ||| (e.packed.setWidth 32 <<< l.encLsb), rtMask l.rtLsb, l.rtLsb⟩

/-- The pattern of the MSR write of the target register of `f`, where `enc(T)` is supplied (R57). -/
def writePattern (c : Config) (f : TrapField) : Option Pattern := (c.encOf f).map msrPattern

/-- The pattern of each row of the table under a configuration; `none` where the encoding is OPEN. -/
def pattern (c : Config) : Instr → Option Pattern
  | .mrsHFGWTR2 _ => some ⟨c.matchMRS, rtMask 0, 0⟩
  | .msrHFGWTR2 _ => some ⟨c.matchMSR, rtMask 0, 0⟩
  | .msrACTLRALIAS _ => writePattern c .nACTLRALIAS
  | .msrACTLRMASK _ => writePattern c .nACTLRMASK
  | .msrTCR2ALIAS _ => writePattern c .nTCR2ALIAS
  | .msrTCRALIAS _ => writePattern c .nTCRALIAS
  | .msrSCTLR2ALIAS _ => writePattern c .nSCTLR2ALIAS
  | .msrSCTLRALIAS _ => writePattern c .nSCTLRALIAS
  | .msrCPACRALIAS _ => writePattern c .nCPACRALIAS
  | .msrTCR2MASK _ => writePattern c .nTCR2MASK
  | .msrTCRMASK _ => writePattern c .nTCRMASK
  | .msrSCTLR2MASK _ => writePattern c .nSCTLR2MASK
  | .msrSCTLRMASK _ => writePattern c .nSCTLRMASK
  | .msrCPACRMASK _ => writePattern c .nCPACRMASK
  | .msrRCWSMASK _ => writePattern c .nRCWSMASK
  | .msrrRCWSMASK _ =>
    match c.msrr, c.encOf .nRCWSMASK with
    | some l, some e => some (msrrPattern l e)
    | _, _ => none
  | .msrPFAR _ => writePattern c .nPFAR

/-- The rows of the table, each as a function of its operand (R58). -/
def rows : List (RegNum → Instr) :=
  [.mrsHFGWTR2, .msrHFGWTR2, .msrACTLRALIAS, .msrACTLRMASK, .msrTCR2ALIAS, .msrTCRALIAS, .msrSCTLR2ALIAS,
   .msrSCTLRALIAS, .msrCPACRALIAS, .msrTCR2MASK, .msrTCRMASK, .msrSCTLR2MASK, .msrSCTLRMASK, .msrCPACRMASK,
   .msrRCWSMASK, .msrrRCWSMASK, .msrPFAR]

/-- The patterns a configuration gives, in the table's order. -/
def patterns (c : Config) : List Pattern := rows.filterMap (fun mk => pattern c (mk 0#5))

/-- The word is one of the pattern's. -/
def Pattern.matchesWord (p : Pattern) (w : InstrWord) : Bool := w &&& p.mask == p.fixed

/-- The operand number a word of the pattern carries. -/
def Pattern.rtOf (p : Pattern) (w : InstrWord) : RegNum := (w >>> p.rtLsb).setWidth 5

/-- The word of the pattern with operand number `t`. -/
def Pattern.wordOf (p : Pattern) (t : RegNum) : InstrWord := p.fixed ||| (t.setWidth 32 <<< p.rtLsb)

/-- The pattern fixes every bit but the five of `Rt`, which lie in the word, and its fixed bits are bits of the
mask. -/
def Pattern.wf (p : Pattern) : Bool :=
  decide (p.rtLsb ≤ 27) && p.mask == rtMask p.rtLsb && p.fixed &&& p.mask == p.fixed

/-- No word is of both patterns: they differ at a bit that both fix. -/
def Pattern.disjoint (p q : Pattern) : Bool := (p.fixed ^^^ q.fixed) &&& (p.mask &&& q.mask) != 0#32

/-- The check of R51 and decision D11: bits [20:5] of both match words carry the tuple of R50. -/
def Config.matchWordsCarryTuple (c : Config) : Bool :=
  c.matchMRS.extractLsb' 5 16 == hfgwtr2Enc.packed && c.matchMSR.extractLsb' 5 16 == hfgwtr2Enc.packed

/-- Every word has at most one meaning under the configuration. -/
def Config.unambiguous (c : Config) : Bool :=
  (patterns c).all Pattern.wf && decide ((patterns c).Pairwise (fun p q => p.disjoint q = true))

/-- A configuration whose encodings can be decoded: its data, its match words and its patterns are in order. -/
def Config.encodingsOk (c : Config) : Bool := c.wf && c.matchWordsCarryTuple && c.unambiguous

/-- Why the decoder refuses. -/
inductive DecodeRefusal where
  /-- The word is of no row of the table: "not decoded", which is neither UNDEFINED nor a no-op (R54). Safe. -/
  | notDecoded
  /-- The word is an MSRR of an odd register number, which its syntax does not have (R56, assumption 4). Safe. -/
  | oddRegisterPair
  /-- Fewer than four bytes were given (R51: every instruction is one 32-bit word). Safe. -/
  | truncated
  deriving DecidableEq, Repr

/-- The row whose pattern the word is of. -/
def findRow (c : Config) (w : InstrWord) : Option Instr :=
  rows.findSome? fun mk =>
    match pattern c (mk 0#5) with
    | some p => if p.matchesWord w then some (mk (p.rtOf w)) else none
    | none => none

/-- Decode one word (R51, R54, R57). -/
def decodeWord (c : Config) (w : InstrWord) : Except DecodeRefusal Instr :=
  match findRow c w with
  | some i => if i.wf then .ok i else .error .oddRegisterPair
  | none => .error .notDecoded

/-- Four bytes, the one at the lowest address first, as a word: little-endian (R51, R42). -/
def wordOfBytes (b0 b1 b2 b3 : Byte) : InstrWord := b3 ++ b2 ++ b1 ++ b0

/-- The bytes of a word, the one at the lowest address first (R51). -/
def bytesOfWord (w : InstrWord) : List Byte :=
  [w.extractLsb' 0 8, w.extractLsb' 8 8, w.extractLsb' 16 8, w.extractLsb' 24 8]

/-- Decode the instruction that bytes begin with, and the bytes after it. -/
def decode (c : Config) : List Byte → Except DecodeRefusal (Instr × List Byte)
  | b0 :: b1 :: b2 :: b3 :: rest =>
    match decodeWord c (wordOfBytes b0 b1 b2 b3) with
    | .ok i => .ok (i, rest)
    | .error r => .error r
  | _ => .error .truncated

/-- The word of an instruction, where the configuration gives its encoding. -/
def encodeWord (c : Config) (i : Instr) : Option InstrWord := (pattern c i).map (fun p => p.wordOf i.rt)

/-- The bytes of an instruction, where the configuration gives its encoding. -/
def encode (c : Config) (i : Instr) : Option (List Byte) := (encodeWord c i).map bytesOfWord

/-- The 32-bit word that `nbits` bits numbered as spec/opcode_table.json numbers them stand for; the bits above are
zero. -/
def tableWord (nbits w : Nat) : InstrWord := BitVec.ofNat 32 (w % 2 ^ nbits)

/-- The instruction the decoder reads from a word of the opcode table, under the configuration of `State.reset`. -/
def decodeTableWord (nbits w : Nat) : Option Instr :=
  match decode Config.default (bytesOfWord (tableWord nbits w)) with
  | .ok (i, _) => some i
  | .error _ => none

end Sys2Proof
end

