-- ==== Sys2Proof/Machine/State.lean ====
section
/-! DEFINITION. State.lean: everything the spec gives the machine, as plain data, with the reasons a step stops and the
state right after reset. INVENTORY.md lists each field with the rule that names it. -/

namespace Sys2Proof.Machine

/-- Byte memory: (address, byte) pairs, addresses strictly rising; an address that is not listed has no value. -/
abbrev Memory := List Host.Cell

/-- The 31 general registers `X0` to `X30` (R30). -/
abbrev Gprs := Vector Word 31

/-- The fields of ESR_ELx the spec names (R92): EC at [31:26], IL at [25], ISS at [24:0]. -/
structure Syndrome where
  ec : BitVec 6
  il : BitVec 1
  iss : BitVec 25
  deriving DecidableEq, Repr

/-- The low 32 bits of ESR_ELx, laid out as R92 says. -/
def Syndrome.word (y : Syndrome) : BitVec 32 := y.ec ++ y.il ++ y.iss

/-- The exception registers of one Exception level (R97): ESR_ELx, ELR_ELx, SPSR_ELx and VBAR_ELx. -/
structure ExcBank where
  esr : Syndrome
  elr : Word
  spsr : PState
  vbar : Word
  deriving DecidableEq, Repr

/-- The inputs of R3 that are not PSTATE: values that instructions outside the spec's scope can change. The rules read
them and never write them. -/
structure Inputs where
  /-- `EffectiveHCR_EL2_NVx()`, matched against `'1x1'` and `'xx1'` (R5). -/
  nvx : BitVec 3
  /-- `SCR_EL3.FGTEn2` (R102). -/
  fgtEn2 : BitVec 1
  /-- `EL3SDDUndef()` (R103). -/
  sdd : Bool
  /-- `EL3SDDUndefPriority()` (R103). -/
  sddPrio : Bool
  /-- "EL2 is implemented and enabled in the current Security state". -/
  el2Enabled : Bool
  /-- `higher_prio(i)` for the instruction `i` this step runs (R96). -/
  higherPrio : Bool
  /-- The environment selects a fault of the NVMem access (R41, row M6 of 95_test_vectors.md). -/
  nvMemFault : Bool
  /-- `HCR_EL2.TGE`, which R90's passage on UNDEFINED names (assumption 16). -/
  tge : Bool
  deriving DecidableEq, Repr

/-- What a reset leaves and the spec does not state: the draw for the UNKNOWN bits of HFGWTR2_EL2 (R28) and the boot
values of everything R111 calls "not stated" or an input. -/
structure Boot where
  draw : Word
  gpr : Gprs
  pstate : PState
  inp : Inputs
  exc1 : ExcBank
  exc2 : ExcBank
  exc3 : ExcBank
  deriving DecidableEq, Repr

/-- A move of the environment between two instruction steps (R3): what instructions outside the spec's scope, and
resets, can do to the state (assumption 20). -/
inductive EnvMove where
  /-- The inputs of R3 take new values. -/
  | setInputs (i : Inputs)
  /-- PSTATE takes a new value: the Exception level and execution state are inputs of R3. -/
  | setPState (p : PState)
  /-- An instruction outside the scope writes a general register. -/
  | setX (t : RegNum) (v : Word)
  /-- An instruction outside the scope transfers control. -/
  | setPc (a : Word)
  /-- Instructions outside the scope write exception registers. -/
  | setBanks (b1 b2 b3 : ExcBank)
  /-- Something else writes the memory behind `NVMem[0x2C8]` (R63, R112 item 4). -/
  | writeNvMem (v : Word)
  /-- A Context synchronization event (R47). -/
  | contextSync
  /-- A return from an exception (R98: outside the spec; assumption 19). -/
  | exceptionReturn
  /-- A Warm reset (R28, R110), with what it leaves and the spec does not state. -/
  | warmReset (b : Boot)
  /-- A Cold reset: the same values as a Warm reset (R110, decision D4). -/
  | coldReset (b : Boot)
  deriving DecidableEq, Repr

/-- What happens next, in the environment's schedule: an instruction step, or a move of the environment between two of
them (R3, R95; assumption 20). -/
inductive EnvEvent where
  /-- One instruction step. -/
  | instr
  /-- One move of the environment. -/
  | move (m : EnvMove)
  deriving DecidableEq, Repr

/-- The state of the machine. -/
structure State where
  /-- The hardware's configuration (R2); no step changes it. -/
  cfg : Config
  /-- HFGWTR2_EL2, all 64 bits (R10). -/
  hfgwtr2 : Word
  /-- `x[0..30]` (R30). -/
  gpr : Gprs
  /-- The program counter (R64, decision D16). -/
  pc : Word
  /-- PSTATE (R31, R3). -/
  pstate : PState
  /-- The other inputs of R3. -/
  inp : Inputs
  /-- ESR_EL1, ELR_EL1, SPSR_EL1, VBAR_EL1 (R97). -/
  exc1 : ExcBank
  /-- ESR_EL2, ELR_EL2, SPSR_EL2, VBAR_EL2 (R97). -/
  exc2 : ExcBank
  /-- ESR_EL3, ELR_EL3, SPSR_EL3, VBAR_EL3 (R97). -/
  exc3 : ExcBank
  /-- The program text, fixed (R48). -/
  text : Memory
  /-- The byte memory outside the program text (R41). -/
  mem : Memory
  /-- The abstract cell `nvmem_2C8`: memory, `none` while nothing has written it (R33, R111). -/
  nvCell : Option Word
  /-- The model's own: a direct write of HFGWTR2_EL2 has no Context synchronization event after it yet (R47). -/
  unsynced : Bool
  /-- The model's own: the counter the free values are applied to (assumption 18). -/
  free : Nat
  /-- The model's own: the environment's schedule, what happens next first; after its end only instruction steps
  (assumption 20). -/
  env : List EnvEvent
  deriving DecidableEq, Repr

/-- Why the machine stops with a fault. -/
inductive Fault where
  /-- Raised by the NVMem access of MRS and MSR where the environment selects a fault: `NVMemFault`, about which the
  spec says nothing more (R41). Safe: the machine stops where the hardware takes an exception. -/
  | nvMemFault
  /-- Raised by the NVMem read of MRS where nothing has written the memory: it has no value (R33, R111). Safe: the
  machine stops where the hardware reads some value. -/
  | nvMemUnwritten
  /-- Raised by the fetch where the program text has no byte at an address of the word (R48). Safe. -/
  | fetchNoText
  /-- Raised by the fetch at a program counter that is no multiple of 4 (R51). Safe. -/
  | fetchMisaligned
  deriving DecidableEq, Repr

/-- Why the machine refuses to continue. -/
inductive Refusal where
  /-- Raised by `exec` for an instruction that has no meaning yet. Safe. -/
  | notModelled (mnemonic : String)
  /-- Raised by a direct MSR of HFGWTR2_EL2 under `RES0_POLICY = refuse`: "write of 1 to a RES0 bit" (R12, R62).
  Safe. -/
  | writeOneToRes0
  /-- Raised by the 15 trapped writes where this register does not trap them: "semantics of the untrapped write outside
  the spec" (R70, decision D24). Safe. -/
  | untrappedWriteOutsideSpec
  /-- Raised by the 15 trapped writes: "higher-priority exception outside the spec" (R70, decision D14). Safe. -/
  | higherPriorityExceptionOutsideSpec
  /-- Raised by the NVMem access where `NVBase` is no multiple of 8 (R43, decision D8). Safe. -/
  | nvBaseMisaligned
  /-- Raised by an NVMem write onto a byte of the program text (R48, decision D10). Safe. -/
  | selfModifyingCode
  /-- Raised by the step for bytes that are no instruction of the spec (R54, decision D11). Safe. -/
  | undecodable (why : DecodeRefusal)
  /-- Raised by the step where PSTATE is not in AArch64 state (decision D25). Safe. -/
  | aarch32State
  /-- Raised by the environment's exception return at EL0, or to a level above the current one or not implemented
  (assumption 19). Safe. -/
  | illegalExceptionReturn
  deriving DecidableEq, Repr

/-- The answer of an operation that may stop. -/
abbrev Answer (α : Type) := Host.Outcome α Fault Refusal

/-- An exception bank at reset: nothing of it is stated (assumption 6). -/
def ExcBank.reset : ExcBank := ⟨⟨0#6, 0#1, 0#25⟩, 0#64, ⟨.el0, true, false⟩, 0#64⟩

/-- The inputs at reset: none is stated (assumption 8). -/
def Inputs.reset : Inputs where
  nvx := 0#3
  fgtEn2 := 0#1
  sdd := false
  sddPrio := false
  el2Enabled := true
  higherPrio := false
  nvMemFault := false
  tge := false

/-- The machine right after reset, for the configuration `Config.default`. HFGWTR2_EL2 is 0, as R28 states where the
highest implemented Exception level is EL2; no memory holds a value (R33, R111); every other register at the value
assumptions 6, 7 and 8 name. -/
def State.reset : State where
  cfg := Config.default
  hfgwtr2 := 0#64
  gpr := Vector.replicate 31 0#64
  pc := 0#64
  pstate := ⟨.el2, true, true⟩
  inp := Inputs.reset
  exc1 := ExcBank.reset
  exc2 := ExcBank.reset
  exc3 := ExcBank.reset
  text := []
  mem := []
  nvCell := none
  unsynced := false
  free := 0
  env := []

end Sys2Proof.Machine
end

