-- ==== Sys2Proof/Machine/Flags.lean ====
section
/-! DEFINITION. Flags.lean: the bits of HFGWTR2_EL2. The spec has no condition flag (R31): the only flags of this
hardware are the register's trap controls, and this file holds all that is computed on them: positions and features
(R11), the implemented-field mask (R11, R29), the RES0 treatment (R12), the effective value (R27), the reset value
(R28). -/

namespace Sys2Proof.Machine

/-- The bit position of a field (R11). -/
def fieldBit : TrapField → Nat
  | .nACTLRALIAS => 14
  | .nACTLRMASK => 13
  | .nTCR2ALIAS => 12
  | .nTCRALIAS => 11
  | .nSCTLR2ALIAS => 10
  | .nSCTLRALIAS => 9
  | .nCPACRALIAS => 8
  | .nTCR2MASK => 7
  | .nTCRMASK => 6
  | .nSCTLR2MASK => 5
  | .nSCTLRMASK => 4
  | .nCPACRMASK => 3
  | .nRCWSMASK => 2
  | .nPFAR => 0

/-- The feature that gates a field is implemented (R11, R13 to R26). -/
def fieldFeature (c : Config) : TrapField → Bool
  | .nRCWSMASK => c.featTHE
  | .nPFAR => c.featPFAR
  | .nACTLRALIAS => c.featSRMASK
  | .nACTLRMASK => c.featSRMASK
  | .nTCR2ALIAS => c.featSRMASK
  | .nTCRALIAS => c.featSRMASK
  | .nSCTLR2ALIAS => c.featSRMASK
  | .nSCTLRALIAS => c.featSRMASK
  | .nCPACRALIAS => c.featSRMASK
  | .nTCR2MASK => c.featSRMASK
  | .nTCRMASK => c.featSRMASK
  | .nSCTLR2MASK => c.featSRMASK
  | .nSCTLRMASK => c.featSRMASK
  | .nCPACRMASK => c.featSRMASK

/-- `WMASK`, the mask of the implemented fields; 0 without EL2 (R11, R29). -/
def wmask (c : Config) : Word :=
  if c.haveEL2 then
    (if c.featSRMASK then 0x7FF8#64 else 0#64) ||| (if c.featTHE then 0x4#64 else 0#64)
      ||| (if c.featPFAR then 0x1#64 else 0#64)
  else 0#64

/-- What a direct read returns of a stored value: RES0 bits are 0 unless they are stored (R12, R61 corner case c). -/
def res0Read (c : Config) (v : Word) : Word :=
  match c.res0Policy with
  | .refuse => v &&& wmask c
  | .razWi => v &&& wmask c
  | .stored => v

/-- What a direct write of `v` stores, or its refusal (R12, R62). -/
def res0Write (c : Config) (v : Word) : Answer Word :=
  match c.res0Policy with
  | .refuse => if v &&& ~~~(wmask c) = 0#64 then .next v else .refused .writeOneToRes0
  | .razWi => .next (v &&& wmask c)
  | .stored => .next v

/-- HFGWTR2_EL2 after a reset that draws `u` (R28, R12, R111): 0 where the highest implemented Exception level is EL2;
else the draw, in every bit under `stored` and in the implemented fields otherwise. -/
def resetHfgwtr2 (c : Config) (u : Word) : Word :=
  if c.highestEL = .el2 then 0#64
  else match c.res0Policy with
    | .refuse => u &&& wmask c
    | .razWi => u &&& wmask c
    | .stored => u

/-- `Armed(f)` (R27): with EL3 implemented and `SCR_EL3.FGTEn2 == 0` the field is ignored and treated as zero, which
arms the trap unless the parameter says otherwise; else the stored bit is 0. -/
def armed (f : TrapField) (s : State) : Bool :=
  if s.cfg.haveEL3 && s.inp.fgtEn2 == 0#1 then s.cfg.fgtEn2ZeroMeans == .treatedAsZero
  else !s.hfgwtr2.getLsbD (fieldBit f)

end Sys2Proof.Machine
end

