-- ==== Sys2Proof/Machine/Operands.lean ====
section
/-! DEFINITION. Operands.lean: the operand forms. There is one, the general register `<Xt>` (R52, R53): no immediate,
no shift, no addressing mode. And the bitstring patterns the pseudocode matches `nvx` against (R5). -/

namespace Sys2Proof.Machine

/-- `x[t]`: number 31 is the zero register and reads as 0 (R30, decision D12). -/
def State.x (s : State) (t : RegNum) : Word := s.gpr[t.toNat]?.getD 0#64

/-- `x[t] <- v`: number 31 discards the write (R30, decision D12). -/
def State.setX (s : State) (t : RegNum) (v : Word) : State :=
  { s with gpr := s.gpr.setIfInBounds t.toNat v }

/-- The program counter moves past the 4-byte instruction (R64, decision D16). -/
def State.advancePc (s : State) : State := { s with pc := s.pc + 4#64 }

/-- `nvx IN {'1x1'}`: the leftmost and the rightmost bit are 1 (R5). -/
def nvxMatches1x1 (nvx : BitVec 3) : Bool := nvx.getLsbD 2 && nvx.getLsbD 0

/-- `nvx IN {'xx1'}`: the rightmost bit is 1 (R5). -/
def nvxMatchesxx1 (nvx : BitVec 3) : Bool := nvx.getLsbD 0

end Sys2Proof.Machine
end

