-- ==== Sys2Proof/Machine/Ops.lean ====
section
/-! DEFINITION. Ops.lean: the named operations: byte memory, the NVMem access (R41), the fetch (R51), taking an
exception (R90, R91, R97), the return from one (R98), and reset (R28, R111). -/

namespace Sys2Proof.Machine

/-! ## Byte memory -/

/-- The byte listed at an address; `none` where nothing has written it. -/
def Memory.read : Memory → Nat → Option Byte
  | [], _ => none
  | (k, v) :: rest, a => if k = a then some v else Memory.read rest a

/-- Write one byte, keeping the addresses strictly rising. -/
def Memory.write : Memory → Nat → Byte → Memory
  | [], a, b => [(a, b)]
  | (k, v) :: rest, a, b =>
    if a < k then (a, b) :: (k, v) :: rest
    else if a = k then (a, b) :: rest
    else (k, v) :: Memory.write rest a b

/-- Every address of the list is above `lo`, and they rise strictly. -/
def Memory.risingFrom (lo : Nat) : Memory → Bool
  | [] => true
  | (k, _) :: rest => decide (lo < k) && Memory.risingFrom k rest

/-- The canonical form: addresses strictly rising. An unlisted address has no value, so no entry can equal what it
reads as. -/
def Memory.wf : Memory → Bool
  | [] => true
  | (k, _) :: rest => Memory.risingFrom k rest

/-- Write bytes at consecutive addresses. -/
def Memory.writeBytes (m : Memory) (a : Nat) : List Byte → Memory
  | [] => m
  | b :: bs => Memory.writeBytes (m.write a b) (a + 1) bs

/-- Some byte of the `n` at `a` is listed. -/
def Memory.listsAny (m : Memory) (a : Nat) : Nat → Bool
  | 0 => false
  | n + 1 => (m.read a).isSome || Memory.listsAny m (a + 1) n

/-- Byte `a` of the byte memory that a mapped `NVMem` reads (R41): the program text's where the text lists one, else the
byte memory's. DESIGN CHOICE: whether the program text lies in that memory is in no rule (assumption 30). -/
def State.byteAt (s : State) (a : Nat) : Option Byte :=
  match s.text.read a with
  | some b => some b
  | none => s.mem.read a

/-- The `n` bytes at `a`, lowest address first; `none` where one has no value. -/
def State.bytesAt (s : State) (a : Nat) : Nat → Option (List Byte)
  | 0 => some []
  | n + 1 =>
    match s.byteAt a, s.bytesAt (a + 1) n with
    | some b, some bs => some (b :: bs)
    | _, _ => none

/-! ## The NVMem access (R41) -/

/-- The 8 bytes of a 64-bit value, the least significant first. -/
def splitWord (v : Word) : List Byte :=
  [v.extractLsb' 0 8, v.extractLsb' 8 8, v.extractLsb' 16 8, v.extractLsb' 24 8,
   v.extractLsb' 32 8, v.extractLsb' 40 8, v.extractLsb' 48 8, v.extractLsb' 56 8]

/-- The 64-bit value of 8 bytes, the least significant first. -/
def joinWord : List Byte → Word
  | [b0, b1, b2, b3, b4, b5, b6, b7] => b7 ++ b6 ++ b5 ++ b4 ++ b3 ++ b2 ++ b1 ++ b0
  | _ => 0#64

/-- The bytes of a value in the order memory holds them: the parameter `NVMemBigEndian` (R42). -/
def nvToBytes (m : NvMap) (v : Word) : List Byte :=
  if m.bigEndian then (splitWord v).reverse else splitWord v

/-- The value of bytes in the order memory holds them (R42). -/
def nvOfBytes (m : NvMap) (bs : List Byte) : Word :=
  if m.bigEndian then joinWord bs.reverse else joinWord bs

/-- The offset of the image of HFGWTR2_EL2 in `NVMem` (R41). -/
def nvOffset : Word := 0x2C8#64

/-- The lowest address of the image: `NVBase + 0x2C8` (R41). -/
def nvAddress (m : NvMap) : Nat := (m.base + nvOffset).toNat

/-- `NVMemRead(0x2C8)` (R41): the abstract cell, or the 8 bytes at `NVBase + 0x2C8` where the configuration maps it;
`NVMemFault` where the environment selects one. DESIGN CHOICE: where several stops apply, a selected
`NVMemFault` comes first, then a misaligned `NVBase`, then memory without a value (assumption 31). -/
def nvMemRead (s : State) : Answer Word :=
  if s.inp.nvMemFault then .fault .nvMemFault
  else match s.cfg.nvMap with
    | none =>
      match s.nvCell with
      | some v => .next v
      | none => .fault .nvMemUnwritten
    | some m =>
      if m.wf then
        match s.bytesAt (nvAddress m) 8 with
        | some bs => .next (nvOfBytes m bs)
        | none => .fault .nvMemUnwritten
      else .refused .nvBaseMisaligned

/-- The store behind `NVMemWrite(0x2C8, v)` (R41): the whole cell, or the 8 bytes at `NVBase + 0x2C8`. A store onto the
program text is refused (R48). DESIGN CHOICE: where both apply, a misaligned `NVBase` is the stop that is answered
(assumption 31). -/
def nvMemStore (v : Word) (s : State) : Answer State :=
  match s.cfg.nvMap with
  | none => .next { s with nvCell := some v }
  | some m =>
    if m.wf then
      if s.text.listsAny (nvAddress m) 8 then .refused .selfModifyingCode
      else .next { s with mem := s.mem.writeBytes (nvAddress m) (nvToBytes m v) }
    else .refused .nvBaseMisaligned

/-- `NVMemWrite(0x2C8, v)` (R41), with the `NVMemFault` the environment may select. DESIGN CHOICE: a selected
`NVMemFault` comes before every refusal of the store (assumption 31). -/
def nvMemWrite (v : Word) (s : State) : Answer State :=
  if s.inp.nvMemFault then .fault .nvMemFault else nvMemStore v s

/-! ## The fetch (R51) -/

/-- The four bytes of the instruction at the program counter, from the program text (R48, R51). DESIGN CHOICE: where both
stops apply, a misaligned program counter is the one that is answered (assumption 31). -/
def fetch (s : State) : Answer (List Byte) :=
  if s.pc.isMultipleOf 4 then
    match s.text.read s.pc.toNat, s.text.read (s.pc.toNat + 1), s.text.read (s.pc.toNat + 2),
        s.text.read (s.pc.toNat + 3) with
    | some b0, some b1, some b2, some b3 => .next [b0, b1, b2, b3]
    | _, _, _, _ => .fault .fetchNoText
  else .fault .fetchMisaligned

/-! ## Exceptions (60_exceptions.md) -/

/-- The exception registers of a level. -/
def State.bank (s : State) : TargetEL → ExcBank
  | .el1 => s.exc1
  | .el2 => s.exc2
  | .el3 => s.exc3

/-- Write the exception registers of a level. -/
def State.setBank (s : State) (tgt : TargetEL) (b : ExcBank) : State :=
  match tgt with
  | .el1 => { s with exc1 := b }
  | .el2 => { s with exc2 := b }
  | .el3 => { s with exc3 := b }

/-- The address an entry to `tgt` from `p` branches to: an offset from VBAR_ELx chosen by the source level and state
(R97). The offset is a free value, a whole number of instruction words (assumption 17). -/
def vectorAddress (vbar : Word) (p : PState) (tgt : TargetEL) : Word :=
  vbar + (Config.vectorIndex p tgt ++ 0#2)

/-- TAKING AN EXCEPTION (R97): the syndrome goes to ESR_ELx, the address of this instruction to ELR_ELx, the old PSTATE
to SPSR_ELx; PSTATE.EL becomes the target level, interrupts are masked, and control goes to the level's vector. The
entry is a Context synchronization event (R47). Nothing else changes (R90, R91). Assumption 15. -/
def takeException (tgt : TargetEL) (y : Syndrome) (s : State) : State :=
  let b := s.bank tgt
  { s.setBank tgt { b with esr := y, elr := s.pc, spsr := s.pstate } with
    pstate := { s.pstate with el := tgt.level, intMasked := true }
    pc := vectorAddress b.vbar s.pstate tgt
    unsynced := false }

/-- A syndrome from its class and the 26 bits below it. -/
def syndromeOf (ec : BitVec 6) (ilIss : BitVec 26) : Syndrome :=
  ⟨ec, ilIss.extractLsb' 25 1, ilIss.extractLsb' 0 25⟩

/-- The next free value of the IL bit and the ISS, and the state whose counter has moved past it (assumption 18). -/
def State.tick (s : State) : State := { s with free := s.free + 1 }

/-- `SystemAccessTrap(tgt, ec)` with a syndrome the spec lays out (R91, R92). -/
def raiseSystemAccessTrap (tgt : TargetEL) (ec : BitVec 6) (il : BitVec 1) (iss : BitVec 25) (s : State) : State :=
  takeException tgt ⟨ec, il, iss⟩ s

/-- `SystemAccessTrap(tgt, ec)` with a class whose syndrome layout the spec does not supply (R91, R93): IL and ISS are
a free value. -/
def raiseSystemAccessTrapFreeIss (tgt : TargetEL) (ec : BitVec 6) (s : State) : State :=
  takeException tgt (syndromeOf ec (Config.freeIlIss s.free)) s.tick

/-- The level an UNDEFINED instruction's exception is taken to (R90's passage; assumption 16). -/
def undefinedTarget (s : State) : TargetEL :=
  match s.pstate.el with
  | .el0 => if s.inp.tge then .el2 else .el1
  | .el1 => if s.inp.tge then .el2 else .el1
  | .el2 => .el2
  | .el3 => .el3

/-- `raise Undefined` (R90): the instruction is not executed; EC is `0x00`, IL and ISS a free value (assumption 16). -/
def raiseUndefined (s : State) : State :=
  takeException (undefinedTarget s) (syndromeOf 0x00#6 (Config.freeIlIss s.free)) s.tick

/-- The ISS of a trapped MSR or MRS (R92): zeros at [24:22], Op0, Op2, Op1, CRn, Rt, CRm, and the direction at [0],
1 for a read. `packed` is the tuple in the order of R51. -/
def sysRegIss (packed : BitVec 16) (t : RegNum) (isRead : Bool) : BitVec 25 :=
  0#3 ++ packed.extractLsb' 14 2 ++ packed.extractLsb' 0 3 ++ packed.extractLsb' 11 3 ++ packed.extractLsb' 7 4
    ++ t ++ packed.extractLsb' 3 4 ++ (if isRead then 1#1 else 0#1)

/-- Return to what a level's exception registers saved: PSTATE from SPSR_ELx and control to ELR_ELx, never to a higher
level or one not implemented; a Context synchronization event (R47). Assumption 19. -/
def returnTo (b : ExcBank) (s : State) : Answer State :=
  if b.spsr.el.rank ≤ s.pstate.el.rank ∧ s.cfg.implements b.spsr.el = true then
    .next { s with pstate := b.spsr, pc := b.elr, unsynced := false }
  else .refused .illegalExceptionReturn

/-- THE RETURN FROM AN EXCEPTION, an instruction outside the scope (R98), by the exception registers of the current level;
EL0 has none. Assumption 19. -/
def exceptionReturn (s : State) : Answer State :=
  match s.pstate.el with
  | .el0 => .refused .illegalExceptionReturn
  | .el1 => returnTo s.exc1 s
  | .el2 => returnTo s.exc2 s
  | .el3 => returnTo s.exc3 s

/-! ## Reset (R28, R110, R111) -/

/-- The state after a reset of hardware `c` that leaves `b` where the spec states no value, with the program text and the
environment's later events as they were. No memory behind NVMem holds a value (R33, R111). -/
def bootState (c : Config) (b : Boot) (text : Memory) (env : List EnvEvent) (free : Nat) : State where
  cfg := c
  hfgwtr2 := resetHfgwtr2 c b.draw
  gpr := b.gpr
  pc := c.resetAddr
  pstate := b.pstate
  inp := b.inp
  exc1 := b.exc1
  exc2 := b.exc2
  exc3 := b.exc3
  text := text
  mem := []
  nvCell := none
  unsynced := false
  free := free
  env := env

/-- A Warm reset (R28). -/
def warmReset (b : Boot) (s : State) : State := bootState s.cfg b s.text s.env s.free

/-- A Cold reset gives the same values (R110, decision D4). -/
def coldReset (b : Boot) (s : State) : State := warmReset b s

end Sys2Proof.Machine
end

