-- ==== Sys2Proof/Machine/Access.lean ====
section
/-! DEFINITION. Access.lean: the two instructions that access HFGWTR2_EL2 (40_mrs_msr_hfgwtr2.md). -/

namespace Sys2Proof.Machine

/-- The five paths an access can take (R60). -/
inductive AccessPath where
  | undefined | trapEL2 | trapEL3 | nvMem | direct
  deriving DecidableEq, Repr

/-- `Access()` (R60), branch by branch. -/
def accessPath (s : State) : AccessPath :=
  if !s.cfg.present then .undefined
  else match s.pstate.el with
    | .el0 => .undefined
    | .el1 =>
      if nvxMatches1x1 s.inp.nvx then .nvMem
      else if nvxMatchesxx1 s.inp.nvx then .trapEL2
      else .undefined
    | .el2 =>
      if s.cfg.haveEL3 && s.inp.sddPrio && s.inp.fgtEn2 == 0#1 then .undefined
      else if s.cfg.haveEL3 && s.inp.fgtEn2 == 0#1 then
        if s.inp.sdd then .undefined else .trapEL3
      else .direct
    | .el3 => .direct

/-- The trap of an access, to `tgt` with class `0x18` and the ISS of R92. -/
def accessTrap (tgt : TargetEL) (t : RegNum) (isRead : Bool) (s : State) : State :=
  raiseSystemAccessTrap tgt 0x18#6 1#1 (sysRegIss hfgwtr2Enc.packed t isRead) s

/-- `HFGWTR2_EL2 <- v` on the direct path (R62, R12); the write waits for a Context synchronization event (R47). -/
def writeHfgwtr2 (v : Word) (s : State) : Answer State :=
  match res0Write s.cfg v with
  | .next w => .next { s with hfgwtr2 := w, unsynced := true }
  | .fault r => .fault r
  | .refused r => .refused r

/-- `MRS <Xt>, HFGWTR2_EL2` (R61). -/
def execMrsHFGWTR2 (t : RegNum) (s : State) : Answer State :=
  match accessPath s with
  | .undefined => .next (raiseUndefined s)
  | .trapEL2 => .next (accessTrap .el2 t true s)
  | .trapEL3 => .next (accessTrap .el3 t true s)
  | .nvMem =>
    match nvMemRead s with
    | .next v => .next (s.setX t v).advancePc
    | .fault r => .fault r
    | .refused r => .refused r
  | .direct => .next (s.setX t (res0Read s.cfg s.hfgwtr2)).advancePc

/-- `MSR HFGWTR2_EL2, <Xt>` (R62). -/
def execMsrHFGWTR2 (t : RegNum) (s : State) : Answer State :=
  match accessPath s with
  | .undefined => .next (raiseUndefined s)
  | .trapEL2 => .next (accessTrap .el2 t false s)
  | .trapEL3 => .next (accessTrap .el3 t false s)
  | .nvMem =>
    match nvMemWrite (s.x t) s with
    | .next s' => .next s'.advancePc
    | .fault r => .fault r
    | .refused r => .refused r
  | .direct =>
    match writeHfgwtr2 (s.x t) s with
    | .next s' => .next s'.advancePc
    | .fault r => .fault r
    | .refused r => .refused r

end Sys2Proof.Machine
end

