-- ==== Sys2Proof/Machine/TrappedWrites.lean ====
section
/-! DEFINITION. TrappedWrites.lean: the 15 writes HFGWTR2_EL2 traps (41_trapped_writes.md). "For these instructions the
spec gives the trap check and nothing else": a write that is not trapped, or that generates a higher-priority exception,
is refused by the name R70 gives it (assumption 22). -/

namespace Sys2Proof.Machine

/-- The outcomes of the fine-grained trap check (R70). -/
inductive FgtOutcome where
  | trap | higherPriority | notTrappedHere
  deriving DecidableEq, Repr

/-- `FGT2WriteTrap(f, ec, i)` (R70), for an instruction executed at EL1 in AArch64 state. -/
def fgt2WriteTrap (f : TrapField) (s : State) : FgtOutcome :=
  if !s.cfg.present then .notTrappedHere
  else if !fieldFeature s.cfg f then .notTrappedHere
  else if !s.inp.el2Enabled then .notTrappedHere
  else if !armed f s then .notTrappedHere
  else if s.inp.higherPrio then .higherPriority
  else .trap

/-- The check at any Exception level and in any execution state: only a write at EL1 using AArch64 is trapped by this
register (R70, R87). -/
def writeTrapCheck (f : TrapField) (s : State) : FgtOutcome :=
  if s.pstate.el = .el1 && s.pstate.aarch64 then fgt2WriteTrap f s else .notTrappedHere

/-- The packed tuple of a target register: the one supplied, else a free value (R57, assumption 18). -/
def targetTuple (f : TrapField) (s : State) : BitVec 16 :=
  match s.cfg.encOf f with
  | some e => e.packed
  | none => Config.openTuple f

/-- The trapped MSR write of the target register of `f` (R70): to EL2 with class `0x18` and the ISS of R92. -/
def trappedMsr (f : TrapField) (t : RegNum) (s : State) : Answer State :=
  match writeTrapCheck f s with
  | .trap => .next (raiseSystemAccessTrap .el2 0x18#6 1#1 (sysRegIss (targetTuple f s) t false) s)
  | .higherPriority => .refused .higherPriorityExceptionOutsideSpec
  | .notTrappedHere => .refused .untrappedWriteOutsideSpec

/-- The trapped MSRR write of the target register of `f` (R70): to EL2 with class `0x14`, whose syndrome layout the spec
does not supply (R93). -/
def trappedMsrr (f : TrapField) (s : State) : Answer State :=
  match writeTrapCheck f s with
  | .trap => .next (raiseSystemAccessTrapFreeIss .el2 0x14#6 s)
  | .higherPriority => .refused .higherPriorityExceptionOutsideSpec
  | .notTrappedHere => .refused .untrappedWriteOutsideSpec

/-- `MSR ACTLRALIAS_EL1, <Xt>` (R71). -/
def execMsrACTLRALIAS (t : RegNum) (s : State) : Answer State := trappedMsr .nACTLRALIAS t s

/-- `MSR ACTLRMASK_EL1, <Xt>` (R72). -/
def execMsrACTLRMASK (t : RegNum) (s : State) : Answer State := trappedMsr .nACTLRMASK t s

/-- `MSR TCR2ALIAS_EL1, <Xt>` (R73). -/
def execMsrTCR2ALIAS (t : RegNum) (s : State) : Answer State := trappedMsr .nTCR2ALIAS t s

/-- `MSR TCRALIAS_EL1, <Xt>` (R74). -/
def execMsrTCRALIAS (t : RegNum) (s : State) : Answer State := trappedMsr .nTCRALIAS t s

/-- `MSR SCTLR2ALIAS_EL1, <Xt>` (R75). -/
def execMsrSCTLR2ALIAS (t : RegNum) (s : State) : Answer State := trappedMsr .nSCTLR2ALIAS t s

/-- `MSR SCTLRALIAS_EL1, <Xt>` (R76). -/
def execMsrSCTLRALIAS (t : RegNum) (s : State) : Answer State := trappedMsr .nSCTLRALIAS t s

/-- `MSR CPACRALIAS_EL1, <Xt>` (R77). -/
def execMsrCPACRALIAS (t : RegNum) (s : State) : Answer State := trappedMsr .nCPACRALIAS t s

/-- `MSR TCR2MASK_EL1, <Xt>` (R78). -/
def execMsrTCR2MASK (t : RegNum) (s : State) : Answer State := trappedMsr .nTCR2MASK t s

/-- `MSR TCRMASK_EL1, <Xt>` (R79). -/
def execMsrTCRMASK (t : RegNum) (s : State) : Answer State := trappedMsr .nTCRMASK t s

/-- `MSR SCTLR2MASK_EL1, <Xt>` (R80). -/
def execMsrSCTLR2MASK (t : RegNum) (s : State) : Answer State := trappedMsr .nSCTLR2MASK t s

/-- `MSR SCTLRMASK_EL1, <Xt>` (R81). -/
def execMsrSCTLRMASK (t : RegNum) (s : State) : Answer State := trappedMsr .nSCTLRMASK t s

/-- `MSR CPACRMASK_EL1, <Xt>` (R82). -/
def execMsrCPACRMASK (t : RegNum) (s : State) : Answer State := trappedMsr .nCPACRMASK t s

/-- `MSR RCWSMASK_EL1, <Xt>` (R83). -/
def execMsrRCWSMASK (t : RegNum) (s : State) : Answer State := trappedMsr .nRCWSMASK t s

/-- `MSRR RCWSMASK_EL1, <Xt>, <Xt+1>` (R84): the operand plays no part. -/
def execMsrrRCWSMASK (_t : RegNum) (s : State) : Answer State := trappedMsrr .nRCWSMASK s

/-- `MSR PFAR_EL1, <Xt>` (R85). -/
def execMsrPFAR (t : RegNum) (s : State) : Answer State := trappedMsr .nPFAR t s

end Sys2Proof.Machine
end

