-- ==== Sys2Proof/Machine/Dispatch.lean ====
section
/-! DEFINITION. Dispatch.lean: the meaning of each instruction, one arm per constructor, in the opcode table's order. -/

namespace Sys2Proof.Machine

def exec (i : Instr) (s : State) : Host.Outcome State Fault Refusal :=
  match i with
  | .mrsHFGWTR2 t => Sys2Proof.Machine.execMrsHFGWTR2 t s
  | .msrHFGWTR2 t => Sys2Proof.Machine.execMsrHFGWTR2 t s
  | .msrACTLRALIAS t => Sys2Proof.Machine.execMsrACTLRALIAS t s
  | .msrACTLRMASK t => Sys2Proof.Machine.execMsrACTLRMASK t s
  | .msrTCR2ALIAS t => Sys2Proof.Machine.execMsrTCR2ALIAS t s
  | .msrTCRALIAS t => Sys2Proof.Machine.execMsrTCRALIAS t s
  | .msrSCTLR2ALIAS t => Sys2Proof.Machine.execMsrSCTLR2ALIAS t s
  | .msrSCTLRALIAS t => Sys2Proof.Machine.execMsrSCTLRALIAS t s
  | .msrCPACRALIAS t => Sys2Proof.Machine.execMsrCPACRALIAS t s
  | .msrTCR2MASK t => Sys2Proof.Machine.execMsrTCR2MASK t s
  | .msrTCRMASK t => Sys2Proof.Machine.execMsrTCRMASK t s
  | .msrSCTLR2MASK t => Sys2Proof.Machine.execMsrSCTLR2MASK t s
  | .msrSCTLRMASK t => Sys2Proof.Machine.execMsrSCTLRMASK t s
  | .msrCPACRMASK t => Sys2Proof.Machine.execMsrCPACRMASK t s
  | .msrRCWSMASK t => Sys2Proof.Machine.execMsrRCWSMASK t s
  | .msrrRCWSMASK t => Sys2Proof.Machine.execMsrrRCWSMASK t s
  | .msrPFAR t => Sys2Proof.Machine.execMsrPFAR t s

end Sys2Proof.Machine
end

