-- ==== Sys2Proof/Machine/Environment.lean ====
section
/-! DEFINITION. Environment.lean: the moves of the environment between two instruction steps (R3, assumption 20), and
the placing of a program's word (assumption 25). -/

namespace Sys2Proof.Machine

/-- Make one move of the environment. -/
def applyMove (m : EnvMove) (s : State) : Answer State :=
  match m with
  | .setInputs i => .next { s with inp := i }
  | .setPState p => .next { s with pstate := p }
  | .setX t v => .next (s.setX t v)
  | .setPc a => .next { s with pc := a }
  | .setBanks b1 b2 b3 => .next { s with exc1 := b1, exc2 := b2, exc3 := b3 }
  | .writeNvMem v => nvMemStore v s
  | .contextSync => .next { s with unsynced := false }
  | .exceptionReturn => exceptionReturn s
  | .warmReset b => .next (warmReset b s)
  | .coldReset b => .next (coldReset b s)

/-- Lay an instruction word into the program text at the program counter, and leave the environment nothing in its
schedule, so that the next step runs it (assumption 25). -/
def placeWord (w : InstrWord) (s : State) : State :=
  { s with text := s.text.writeBytes s.pc.toNat (bytesOfWord w), env := [] }

end Sys2Proof.Machine
end

