-- ==== Sys2Proof/Machine/Step.lean ====
section
/-! DEFINITION. Step.lean: one step of the machine. -/

namespace Sys2Proof.Machine

/-- Fetch, decode and run the instruction at the program counter. DESIGN CHOICE: outside AArch64 state the step is refused
before the fetch, whatever stop the fetch would answer (assumption 31). -/
def runInstr (s : State) : Host.Outcome State Fault Refusal :=
  if s.pstate.aarch64 then
    match fetch s with
    | .next bs =>
      match decode s.cfg bs with
      | .ok (i, _) => exec i s
      | .error r => .refused (.undecodable r)
    | .fault r => .fault r
    | .refused r => .refused r
  else .refused .aarch32State

/-- One step: what the environment's schedule has next, a move or an instruction, and an instruction where the schedule
has ended. So any moves can fall between any two instruction steps of a run (R3, R95). -/
def step (s : State) : Host.Outcome State Fault Refusal :=
  match s.env with
  | .move m :: es => applyMove m { s with env := es }
  | .instr :: es => runInstr { s with env := es }
  | [] => runInstr s

/-- The state with an instruction of the opcode table placed where `step` fetches next (assumption 25). -/
def State.withFetchWord (s : State) (nbits w : Nat) : State := placeWord (tableWord nbits w) s

end Sys2Proof.Machine
end

