-- ==== Sys2Proof/Safety.lean ====
section
/-! DEFINITION. Safety.lean: the terms the claims use: the premises of decision D23, the invariant of the machine, and
the premise `SynchronizedAfterWrite` of R47. -/

namespace Sys2Proof.Machine

/-- The premises of decision D23 on the inputs, and that `HCR_EL2.TGE` acts only where EL2 exists (assumption 16). -/
def inputsConsistent (c : Config) (i : Inputs) : Bool :=
  c.haveEL2 || (!i.el2Enabled && i.nvx == 0#3 && !i.tge)

/-- The exception registers of a level hold addresses of instruction words. -/
def ExcBank.aligned (b : ExcBank) : Bool := b.vbar.isMultipleOf 4 && b.elr.isMultipleOf 4

/-- What a reset leaves meets the premises of decision D23. -/
def bootConsistent (c : Config) (b : Boot) : Bool :=
  c.implements b.pstate.el && inputsConsistent c b.inp && b.exc1.aligned && b.exc2.aligned && b.exc3.aligned

/-- The environment's move keeps the premises of decision D23 and the alignment of instruction addresses (R51). -/
def moveConsistent (c : Config) : EnvMove → Bool
  | .setInputs i => inputsConsistent c i
  | .setPState p => c.implements p.el
  | .setX _ _ => true
  | .setPc a => a.isMultipleOf 4
  | .setBanks b1 b2 b3 => b1.aligned && b2.aligned && b3.aligned
  | .writeNvMem _ => true
  | .contextSync => true
  | .exceptionReturn => true
  | .warmReset b => bootConsistent c b
  | .coldReset b => bootConsistent c b

/-- What the schedule has next keeps the premises of decision D23; an instruction step does by itself. -/
def eventConsistent (c : Config) : EnvEvent → Bool
  | .instr => true
  | .move m => moveConsistent c m

/-- The bits of HFGWTR2_EL2 that R12 makes 0: those outside `WMASK`, unless the policy stores them. -/
def res0Clear (s : State) : Bool :=
  s.cfg.res0Policy == .stored || s.hfgwtr2 &&& ~~~(wmask s.cfg) == 0#64

/-- No address is both program text and byte memory (R48). -/
def textApart (s : State) : Prop := ∀ a, (s.text.read a).isSome → s.mem.read a = none

/-- THE INVARIANT of the machine: every state a run from a consistent state reaches meets it. -/
structure Inv (s : State) : Prop where
  cfg_ok : s.cfg.encodingsOk = true
  level_implemented : s.cfg.implements s.pstate.el = true
  inputs_consistent : inputsConsistent s.cfg s.inp = true
  res0_clear : res0Clear s = true
  pc_aligned : s.pc.isMultipleOf 4 = true
  banks_aligned : (s.exc1.aligned && s.exc2.aligned && s.exc3.aligned) = true
  text_canonical : s.text.wf = true
  mem_canonical : s.mem.wf = true
  text_apart : textApart s
  events_consistent : s.env.all (eventConsistent s.cfg) = true

/-- `SynchronizedAfterWrite` (R47): a Context synchronization event lies between the last direct write of HFGWTR2_EL2 and
the instruction about to run. -/
def SynchronizedAfterWrite (s : State) : Prop := s.unsynced = false

end Sys2Proof.Machine
end

