-- ==== Sys2Proof/Certificates/Slice0/Obligations.lean ====
section
/-! DEFINITION. Obligations.lean: the statements for the provers, and the terms they are written in. Conditions are
written on the raw inputs and configuration, not through the model's own checks, wherever the spec gives them so. -/

namespace Sys2Proof.Machine

/-! ## Terms of the statements -/

/-- The register is present (R10). -/
def Present (s : State) : Prop := s.cfg.featFGT2 = true ∧ s.cfg.featAA64 = true

/-- EL3 is implemented and `SCR_EL3.FGTEn2 == '0'`. -/
def LockedByEL3 (s : State) : Prop := s.cfg.haveEL3 = true ∧ s.inp.fgtEn2 = 0#1

/-- Branches D2 and D3 of R60. -/
def DirectCondition (s : State) : Prop :=
  Present s ∧ (s.pstate.el = .el3 ∨ (s.pstate.el = .el2 ∧ ¬ LockedByEL3 s))

/-- Branch N of R60: `nvx` is 101 or 111. -/
def NvMemCondition (s : State) : Prop :=
  Present s ∧ s.pstate.el = .el1 ∧ (s.inp.nvx = 0b101#3 ∨ s.inp.nvx = 0b111#3)

/-- Branch T2 of R60: `nvx` is 001 or 011. -/
def TrapEL2Condition (s : State) : Prop :=
  Present s ∧ s.pstate.el = .el1 ∧ (s.inp.nvx = 0b001#3 ∨ s.inp.nvx = 0b011#3)

/-- Branch T3 of R60. -/
def TrapEL3Condition (s : State) : Prop :=
  Present s ∧ s.pstate.el = .el2 ∧ LockedByEL3 s ∧ s.inp.sddPrio = false ∧ s.inp.sdd = false

/-- Branches U1 to U5 of R60. -/
def UndefinedCondition (s : State) : Prop :=
  ¬ Present s ∨ s.pstate.el = .el0
    ∨ (s.pstate.el = .el1 ∧ (s.inp.nvx = 0b000#3 ∨ s.inp.nvx = 0b010#3 ∨ s.inp.nvx = 0b100#3 ∨ s.inp.nvx = 0b110#3))
    ∨ (s.pstate.el = .el2 ∧ LockedByEL3 s ∧ (s.inp.sddPrio = true ∨ s.inp.sdd = true))

/-- What no instruction of the spec changes: the configuration, the inputs, the program text, the environment's
schedule. -/
def FixedKept (s s' : State) : Prop :=
  s'.cfg = s.cfg ∧ s'.inp = s.inp ∧ s'.text = s.text ∧ s'.env = s.env

/-- The exception registers and PSTATE are unchanged. -/
def ExceptionStateKept (s s' : State) : Prop :=
  s'.pstate = s.pstate ∧ s'.exc1 = s.exc1 ∧ s'.exc2 = s.exc2 ∧ s'.exc3 = s.exc3

/-- Every byte of memory and the cell behind NVMem are unchanged. -/
def MemoryKept (s s' : State) : Prop :=
  (∀ a, s'.byteAt a = s.byteAt a) ∧ s'.mem = s.mem ∧ s'.nvCell = s.nvCell

/-- Every general register is unchanged. -/
def RegistersKept (s s' : State) : Prop := ∀ r, s'.x r = s.x r

/-- `MRS` completed with the value `v`: it is in `x[t]`, or discarded where `t` is 31, the program counter is past the
instruction, and nothing else changed. -/
def MrsCompleted (t : RegNum) (v : Word) (s s' : State) : Prop :=
  s'.x t = (if t = 31#5 then 0#64 else v) ∧ (∀ r, r ≠ t → s'.x r = s.x r) ∧ s'.pc = s.pc + 4#64
    ∧ s'.hfgwtr2 = s.hfgwtr2 ∧ s'.unsynced = s.unsynced ∧ s'.free = s.free
    ∧ FixedKept s s' ∧ ExceptionStateKept s s' ∧ MemoryKept s s'

/-- The exception registers of `tgt` record an entry from `s` with class `ec`; those of the other levels and every
VBAR are unchanged; PSTATE is at the target level, masked; nothing else in scope changed, but the model's counter of
free values. -/
def EnteredException (tgt : TargetEL) (ec : BitVec 6) (s s' : State) : Prop :=
  (s'.bank tgt).esr.ec = ec ∧ (s'.bank tgt).elr = s.pc ∧ (s'.bank tgt).spsr = s.pstate
    ∧ (s'.bank tgt).vbar = (s.bank tgt).vbar ∧ (∀ r, r ≠ tgt → s'.bank r = s.bank r)
    ∧ s'.pstate = ⟨tgt.level, s.pstate.aarch64, true⟩
    ∧ s'.pc = (s.bank tgt).vbar + (Config.vectorIndex s.pstate tgt ++ 0#2)
    ∧ s'.hfgwtr2 = s.hfgwtr2 ∧ RegistersKept s s' ∧ MemoryKept s s' ∧ FixedKept s s'

/-- The table of R88: each trapped write with its bit, the feature of its field and the class it is reported with. -/
def trappedWrites (t : RegNum) : List (Instr × Nat × (Config → Bool) × BitVec 6) :=
  [(.msrACTLRALIAS t, 14, Config.featSRMASK, 0x18#6),
   (.msrACTLRMASK t, 13, Config.featSRMASK, 0x18#6),
   (.msrTCR2ALIAS t, 12, Config.featSRMASK, 0x18#6),
   (.msrTCRALIAS t, 11, Config.featSRMASK, 0x18#6),
   (.msrSCTLR2ALIAS t, 10, Config.featSRMASK, 0x18#6),
   (.msrSCTLRALIAS t, 9, Config.featSRMASK, 0x18#6),
   (.msrCPACRALIAS t, 8, Config.featSRMASK, 0x18#6),
   (.msrTCR2MASK t, 7, Config.featSRMASK, 0x18#6),
   (.msrTCRMASK t, 6, Config.featSRMASK, 0x18#6),
   (.msrSCTLR2MASK t, 5, Config.featSRMASK, 0x18#6),
   (.msrSCTLRMASK t, 4, Config.featSRMASK, 0x18#6),
   (.msrCPACRMASK t, 3, Config.featSRMASK, 0x18#6),
   (.msrRCWSMASK t, 2, Config.featTHE, 0x18#6),
   (.msrrRCWSMASK t, 2, Config.featTHE, 0x14#6),
   (.msrPFAR t, 0, Config.featPFAR, 0x18#6)]

/-- The effective value of the field at bit `b` is 0 (R27). -/
def EffectiveZero (s : State) (b : Nat) : Prop :=
  (LockedByEL3 s ∧ s.cfg.fgtEn2ZeroMeans = .treatedAsZero) ∨ (¬ LockedByEL3 s ∧ s.hfgwtr2.getLsbD b = false)

/-- The fine-grained trap of bit `b`, gated by `feature`, applies to a write executed in `s`, whether or not a
higher-priority exception comes first (R70, R87). -/
def TrapApplies (s : State) (b : Nat) (feature : Config → Bool) : Prop :=
  Present s ∧ feature s.cfg = true ∧ s.inp.el2Enabled = true ∧ EffectiveZero s b
    ∧ s.pstate.el = .el1 ∧ s.pstate.aarch64 = true

/-- An instruction step is next in `s`, and it runs in `u`: `s` with the schedule past this step (assumption 20). -/
def InstructionNext (s u : State) : Prop :=
  (s.env = [] ∧ u = s) ∨ ∃ es, s.env = .instr :: es ∧ u = { s with env := es }

/-- The 16 bits `1110000110001011` of the tuple of R50. -/
def specTuple : BitVec 16 := 0b11#2 ++ 0b100#3 ++ 0b0011#4 ++ 0b0001#4 ++ 0b011#3

end Sys2Proof.Machine

open Sys2Proof Sys2Proof.Machine

/-! ## Encoding -/

/-- Words of section 2 of 95_test_vectors.md decode to the instructions listed there (R51). -/
def Obligations.SpecWordsDecode : Prop :=
  decodeTableWord 32 0xD53C3160 = some (.mrsHFGWTR2 0#5) ∧ decodeTableWord 32 0xD53C316F = some (.mrsHFGWTR2 15#5)
    ∧ decodeTableWord 32 0xD53C317F = some (.mrsHFGWTR2 31#5) ∧ decodeTableWord 32 0xD51C3161 = some (.msrHFGWTR2 1#5)
    ∧ decodeTableWord 32 0xD51C317E = some (.msrHFGWTR2 30#5) ∧ decodeTableWord 32 0xD51C317F = some (.msrHFGWTR2 31#5)

/-- The neighbouring words of section 2 of 95_test_vectors.md are not decoded (R54). -/
def Obligations.NeighbourWordsNotDecoded : Prop :=
  decodeWord Config.default 0xD53C3140#32 = .error .notDecoded
    ∧ decodeWord Config.default 0xD53C3180#32 = .error .notDecoded
    ∧ decodeWord Config.default 0xD53C3060#32 = .error .notDecoded
    ∧ decodeWord Config.default 0xD5183160#32 = .error .notDecoded
    ∧ decodeWord Config.default 0xD50C3160#32 = .error .notDecoded
    ∧ decodeWord Config.default 0x00000000#32 = .error .notDecoded

/-- DECODE AND ENCODE AGREE: under every configuration whose encodings are in order, the bytes of a well-formed
instruction, followed by any bytes, decode to it and leave those bytes (R51, R57). -/
def Obligations.EncodeThenDecode : Prop :=
  ∀ (c : Config) (i : Instr) (bs rest : List Byte), c.encodingsOk = true → i.wf = true → encode c i = some bs →
    decode c (bs ++ rest) = .ok (i, rest)

/-- The other direction: bytes that decode to an instruction are its bytes and the rest. -/
def Obligations.DecodeThenEncode : Prop :=
  ∀ (c : Config) (i : Instr) (bs rest : List Byte), c.encodingsOk = true → decode c bs = .ok (i, rest) →
    i.wf = true ∧ ∃ front, encode c i = some front ∧ bs = front ++ rest

/-- An instruction whose encoding is OPEN is never decoded: a word that decodes to one of the 15 trapped writes does so
under a configuration that supplies `enc(T)`, and for the MSRR `layout(MSRR)` as well (R57, R58). That an encoding not
supplied leaves the row without a word is log entry 3. -/
def Obligations.OpenEncodingsNeverDecode : Prop :=
  ∀ (c : Config) (w : InstrWord) (i : Instr) (f : TrapField),
    decodeWord c w = .ok i → i.trapField = some f →
    (∃ e, c.encOf f = some e) ∧ ∀ t, i = .msrrRCWSMASK t → ∃ l, c.msrr = some l

/-- The words of the two accesses are `0xD53C3160 | t` and `0xD51C3160 | t` (R51, at the default match words). -/
def Obligations.AccessWordsWithOperand : Prop :=
  ∀ t : RegNum, encodeWord Config.default (.mrsHFGWTR2 t) = some (0xD53C3160#32 ||| t.setWidth 32)
    ∧ encodeWord Config.default (.msrHFGWTR2 t) = some (0xD51C3160#32 ||| t.setWidth 32)

/-- The same tuple, (3, 4, 3, 1, 3) of R50, stands at bits [20:5] of every word of the read and of the write, and the two
words differ. That the tuple has these places in an instruction word is R51, general knowledge that decision D11 adopts
and the configuration's check of its match words carries (log entry 2, PRESUMED). -/
def Obligations.SameTupleForReadAndWrite : Prop :=
  ∀ (c : Config) (t u : RegNum), c.encodingsOk = true →
    ∃ r w, encodeWord c (.mrsHFGWTR2 t) = some r ∧ encodeWord c (.msrHFGWTR2 u) = some w
      ∧ r.extractLsb' 5 16 = specTuple ∧ w.extractLsb' 5 16 = specTuple ∧ r ≠ w

/-! ## The two accesses -/

/-- R60, the five paths, each with exactly its conditions. -/
def Obligations.AccessPathsAreR60 : Prop :=
  ∀ s : State, (accessPath s = .undefined ↔ UndefinedCondition s) ∧ (accessPath s = .trapEL2 ↔ TrapEL2Condition s)
    ∧ (accessPath s = .trapEL3 ↔ TrapEL3Condition s) ∧ (accessPath s = .nvMem ↔ NvMemCondition s)
    ∧ (accessPath s = .direct ↔ DirectCondition s)

/-- R61 on the direct path: MRS completes with the stored register, its RES0 bits 0 unless the policy stores them, and
changes nothing else. `SCR_EL3.FGTEn2` does not alter the value (R27). -/
def Obligations.MrsDirectCompletes : Prop :=
  ∀ (s : State) (t : RegNum), DirectCondition s →
    ∃ s', exec (.mrsHFGWTR2 t) s = .next s'
      ∧ MrsCompleted t (if s.cfg.res0Policy = .stored then s.hfgwtr2 else s.hfgwtr2 &&& wmask s.cfg) s s'

/-- R61 on the NVMem path with the abstract cell: MRS completes with the cell, unmasked, and changes nothing else. -/
def Obligations.MrsNvMemCellCompletes : Prop :=
  ∀ (s : State) (t : RegNum) (v : Word), NvMemCondition s → s.inp.nvMemFault = false → s.cfg.nvMap = none →
    s.nvCell = some v → ∃ s', exec (.mrsHFGWTR2 t) s = .next s' ∧ MrsCompleted t v s s'

/-- R61 on the NVMem path mapped onto byte memory (R41, R42): MRS completes with the 8 bytes at `NVBase + 0x2C8` in the
configured byte order. That a byte of the program text is read before one of the byte memory is log entry 30 (DESIGN
CHOICE). -/
def Obligations.MrsNvMemBytesCompletes : Prop :=
  ∀ (s : State) (t : RegNum) (m : NvMap) (b0 b1 b2 b3 b4 b5 b6 b7 : Byte), NvMemCondition s →
    s.inp.nvMemFault = false → s.cfg.nvMap = some m → m.base.toNat % 8 = 0 →
    s.byteAt (nvAddress m) = some b0 → s.byteAt (nvAddress m + 1) = some b1 → s.byteAt (nvAddress m + 2) = some b2 →
    s.byteAt (nvAddress m + 3) = some b3 → s.byteAt (nvAddress m + 4) = some b4 →
    s.byteAt (nvAddress m + 5) = some b5 → s.byteAt (nvAddress m + 6) = some b6 →
    s.byteAt (nvAddress m + 7) = some b7 →
    ∃ s', exec (.mrsHFGWTR2 t) s = .next s'
      ∧ MrsCompleted t (if m.bigEndian then b0 ++ b1 ++ b2 ++ b3 ++ b4 ++ b5 ++ b6 ++ b7
          else b7 ++ b6 ++ b5 ++ b4 ++ b3 ++ b2 ++ b1 ++ b0) s s'

/-- R62 on the direct path under the three RES0 policies (R12): what MSR stores, that it changes nothing else but the
program counter and the pending synchronization, and that `refuse` refuses a 1 in a RES0 bit. The policy is decision D2 (log
entry 10, DESIGN CHOICE). -/
def Obligations.MsrDirectByPolicy : Prop :=
  ∀ (s : State) (t : RegNum), DirectCondition s →
    (s.cfg.res0Policy = .refuse → s.x t &&& ~~~(wmask s.cfg) ≠ 0#64 →
      exec (.msrHFGWTR2 t) s = .refused .writeOneToRes0)
    ∧ (¬ (s.cfg.res0Policy = .refuse ∧ s.x t &&& ~~~(wmask s.cfg) ≠ 0#64) →
      ∃ s', exec (.msrHFGWTR2 t) s = .next s'
        ∧ s'.hfgwtr2 = (if s.cfg.res0Policy = .razWi then s.x t &&& wmask s.cfg else s.x t)
        ∧ s'.pc = s.pc + 4#64 ∧ s'.unsynced = true ∧ s'.free = s.free ∧ RegistersKept s s'
        ∧ FixedKept s s' ∧ ExceptionStateKept s s' ∧ MemoryKept s s')

/-- R62 on the NVMem path with the abstract cell: MSR sets the whole cell, unmasked, and changes nothing else but the
program counter. -/
def Obligations.MsrNvMemCellCompletes : Prop :=
  ∀ (s : State) (t : RegNum), NvMemCondition s → s.inp.nvMemFault = false → s.cfg.nvMap = none →
    ∃ s', exec (.msrHFGWTR2 t) s = .next s' ∧ s'.nvCell = some (s.x t) ∧ s'.pc = s.pc + 4#64
      ∧ s'.hfgwtr2 = s.hfgwtr2 ∧ s'.unsynced = s.unsynced ∧ s'.free = s.free ∧ s'.mem = s.mem
      ∧ (∀ a, s'.byteAt a = s.byteAt a) ∧ RegistersKept s s' ∧ FixedKept s s' ∧ ExceptionStateKept s s'

/-- R62 on the NVMem path mapped onto byte memory (R41, R42): the 8 bytes at `NVBase + 0x2C8` take the value in the
configured byte order, every other byte is unchanged, and nothing else changes but the program counter. -/
def Obligations.MsrNvMemBytesCompletes : Prop :=
  ∀ (s : State) (t : RegNum) (m : NvMap), NvMemCondition s → s.inp.nvMemFault = false → s.cfg.nvMap = some m →
    m.base.toNat % 8 = 0 → (∀ i, i < 8 → s.text.read (nvAddress m + i) = none) →
    ∃ s', exec (.msrHFGWTR2 t) s = .next s'
      ∧ (∀ i, i < 8 → s'.byteAt (nvAddress m + i)
          = some ((s.x t).extractLsb' (8 * (if m.bigEndian then 7 - i else i)) 8))
      ∧ (∀ a, a < nvAddress m ∨ nvAddress m + 8 ≤ a → s'.byteAt a = s.byteAt a)
      ∧ s'.nvCell = s.nvCell ∧ s'.pc = s.pc + 4#64 ∧ s'.hfgwtr2 = s.hfgwtr2 ∧ s'.unsynced = s.unsynced
      ∧ s'.free = s.free ∧ RegistersKept s s' ∧ FixedKept s s' ∧ ExceptionStateKept s s'

/-- When the NVMem access stops: the environment selects `NVMemFault` (R41); MRS reads a cell, or one of 8 bytes, that
nothing has written (R33); `NVBase` is no multiple of 8 (R43); an MSR would write the program text (R48). The names of
the stops are the model's (assumptions 12, 13, 14), and so are the place of the program text (assumptions 25, 30)
and which stop is answered where several apply (assumption 31). -/
def Obligations.NvMemAccessStops : Prop :=
  ∀ (s : State) (t : RegNum), NvMemCondition s →
    (s.inp.nvMemFault = true → exec (.mrsHFGWTR2 t) s = .fault .nvMemFault ∧ exec (.msrHFGWTR2 t) s = .fault .nvMemFault)
    ∧ (s.inp.nvMemFault = false → s.cfg.nvMap = none → s.nvCell = none →
        exec (.mrsHFGWTR2 t) s = .fault .nvMemUnwritten)
    ∧ (∀ m i, s.inp.nvMemFault = false → s.cfg.nvMap = some m → m.base.toNat % 8 = 0 → i < 8 →
        s.byteAt (nvAddress m + i) = none → exec (.mrsHFGWTR2 t) s = .fault .nvMemUnwritten)
    ∧ (∀ m, s.inp.nvMemFault = false → s.cfg.nvMap = some m → m.base.toNat % 8 ≠ 0 →
        exec (.mrsHFGWTR2 t) s = .refused .nvBaseMisaligned ∧ exec (.msrHFGWTR2 t) s = .refused .nvBaseMisaligned)
    ∧ (∀ m i, s.inp.nvMemFault = false → s.cfg.nvMap = some m → m.base.toNat % 8 = 0 → i < 8 →
        (s.text.read (nvAddress m + i)).isSome → exec (.msrHFGWTR2 t) s = .refused .selfModifyingCode)

/-- Branch T2: both accesses take the trap to EL2 with class `0x18` and the syndrome R92 lays out. The registers of the
entry are R97's passage (assumption 15). -/
def Obligations.AccessTrapsToEL2 : Prop :=
  ∀ (s : State) (t : RegNum), TrapEL2Condition s →
    (∃ s', exec (.mrsHFGWTR2 t) s = .next s' ∧ EnteredException .el2 0x18#6 s s'
      ∧ s'.exc2.esr.iss = 0x370C03#25 ||| (t.setWidth 25 <<< 5) ∧ s'.exc2.esr.il = 1#1)
    ∧ (∃ s', exec (.msrHFGWTR2 t) s = .next s' ∧ EnteredException .el2 0x18#6 s s'
      ∧ s'.exc2.esr.iss = 0x370C02#25 ||| (t.setWidth 25 <<< 5) ∧ s'.exc2.esr.il = 1#1)

/-- Branch T3: both accesses take the trap to EL3 with class `0x18` (assumption 15 as above). -/
def Obligations.AccessTrapsToEL3 : Prop :=
  ∀ (s : State) (t : RegNum), TrapEL3Condition s →
    (∃ s', exec (.mrsHFGWTR2 t) s = .next s' ∧ EnteredException .el3 0x18#6 s s'
      ∧ s'.exc3.esr.iss = 0x370C03#25 ||| (t.setWidth 25 <<< 5) ∧ s'.exc3.esr.il = 1#1)
    ∧ (∃ s', exec (.msrHFGWTR2 t) s = .next s' ∧ EnteredException .el3 0x18#6 s s'
      ∧ s'.exc3.esr.iss = 0x370C02#25 ||| (t.setWidth 25 <<< 5) ∧ s'.exc3.esr.il = 1#1)

/-- Branches U1 to U5: both accesses are UNDEFINED and change no state in scope (R90). The class `0x00`, the target
level and the entry are R90's and R97's passages (assumptions 15 and 16): the model's choice. -/
def Obligations.UndefinedAccessTaken : Prop :=
  ∀ (s : State) (i : Instr) (t : RegNum), i = .mrsHFGWTR2 t ∨ i = .msrHFGWTR2 t → UndefinedCondition s →
    ∃ s' tgt, exec i s = .next s' ∧ EnteredException tgt 0x00#6 s s'
      ∧ (s.pstate.el = .el3 → tgt = .el3) ∧ (s.pstate.el = .el2 → tgt = .el2)
      ∧ (s.pstate.el = .el0 ∨ s.pstate.el = .el1 → tgt = if s.inp.tge then .el2 else .el1)

/-- R63: read-after-write on one path, for both paths, every policy and both byte orders, and the two paths do not
communicate. The rule is derived from R60, R61, R62 and R33. That a read into register 31 leaves 0 there is R30, decision
D12 (log entry 5, PRESUMED); where `NVMem` is mapped, that its bytes may lie in the program text is log entry 30. -/
def Obligations.ReadAfterWriteOnOnePath : Prop :=
  ∀ (s s1 : State) (a b : RegNum), exec (.msrHFGWTR2 a) s = .next s1 →
    (DirectCondition s → DirectCondition s1 ∧ s1.nvCell = s.nvCell ∧ (∀ k, s1.byteAt k = s.byteAt k)
      ∧ ∃ s2, exec (.mrsHFGWTR2 b) s1 = .next s2 ∧ s2.x b = (if b = 31#5 then 0#64
          else if s.cfg.res0Policy = .razWi then s.x a &&& wmask s.cfg else s.x a))
    ∧ (NvMemCondition s → NvMemCondition s1 ∧ s1.hfgwtr2 = s.hfgwtr2
      ∧ ∃ s2, exec (.mrsHFGWTR2 b) s1 = .next s2 ∧ s2.x b = (if b = 31#5 then 0#64 else s.x a))

/-- A value a guest stores through NVMem arms and disarms nothing (R62 corner case c, R101): every trapped write has
the same fate, a trap or the same refusal, before and after. That a write not trapped is refused is decision D24 (log entry 22, DESIGN
CHOICE). -/
def Obligations.NvMemWriteArmsNothing : Prop :=
  ∀ (s s1 : State) (a t : RegNum) (p : Instr × Nat × (Config → Bool) × BitVec 6), p ∈ trappedWrites t →
    NvMemCondition s → exec (.msrHFGWTR2 a) s = .next s1 →
    ((∃ s2, exec p.1 s = .next s2) ↔ ∃ s2, exec p.1 s1 = .next s2)
      ∧ ∀ r, exec p.1 s = .refused r ↔ exec p.1 s1 = .refused r

/-- What an access at EL0 or EL1 does is independent of HFGWTR2_EL2 (R61 corner case d): the run with another value of
the register ends in the same way, the register's value apart. -/
def Obligations.El1AccessIndependentOfRegister : Prop :=
  ∀ (s : State) (i : Instr) (t : RegNum) (v : Word), i = .mrsHFGWTR2 t ∨ i = .msrHFGWTR2 t →
    s.pstate.el = .el0 ∨ s.pstate.el = .el1 →
    exec i { s with hfgwtr2 := v } = (match exec i s with
      | .next s' => .next { s' with hfgwtr2 := v }
      | .fault r => .fault r
      | .refused r => .refused r)

/-! ## The 15 trapped writes -/

/-- R70 and R88: MSR ACTLRALIAS_EL1, ACTLRMASK_EL1, TCR2ALIAS_EL1, TCRALIAS_EL1, SCTLR2ALIAS_EL1, SCTLRALIAS_EL1,
CPACRALIAS_EL1, TCR2MASK_EL1, TCRMASK_EL1, SCTLR2MASK_EL1, SCTLRMASK_EL1, CPACRMASK_EL1, RCWSMASK_EL1 and PFAR_EL1,
and MSRR RCWSMASK_EL1: "For these instructions the spec gives the trap check and nothing else", so the trap IS the
instruction's own effect, and this is where each completes. Under the conditions of R70 it is taken to EL2 with the
class of the table and nothing else in scope changes. The registers of the entry are R97's passage (assumption 15). -/
def Obligations.TrappedWritesComplete : Prop :=
  ∀ (s : State) (t : RegNum) (p : Instr × Nat × (Config → Bool) × BitVec 6), p ∈ trappedWrites t →
    TrapApplies s p.2.1 p.2.2.1 → s.inp.higherPrio = false →
    ∃ s', exec p.1 s = .next s' ∧ EnteredException .el2 p.2.2.2 s s'

/-- R70, the three outcomes of the check for each of the 15 writes, at every Exception level and in both execution
states (R87): where the trap applies and no higher-priority exception comes first, the exception is taken to EL2 with
the class of the table and no register in scope changes; where one does, `Refused` as such; where the trap does not
apply, `Refused` as untrapped, and `higher_prio` is not consulted. R70 is evaluated at EL1 in AArch64 state; that this
register traps nothing elsewhere is R87. The two refusals are decisions D14 and D24 (log entry 22, DESIGN CHOICE), taken
at the other levels and in AArch32 state too. ESR_EL2 and PSTATE.EL after the trap (R91) are the entry of log entry 15
(PRESUMED). -/
def Obligations.TrapOutcomesAreR70 : Prop :=
  ∀ (s : State) (t : RegNum) (p : Instr × Nat × (Config → Bool) × BitVec 6), p ∈ trappedWrites t →
    (TrapApplies s p.2.1 p.2.2.1 → s.inp.higherPrio = false →
      ∃ s', exec p.1 s = .next s' ∧ s'.pstate.el = .el2 ∧ s'.exc2.esr.ec = p.2.2.2
        ∧ s'.hfgwtr2 = s.hfgwtr2 ∧ RegistersKept s s' ∧ MemoryKept s s')
    ∧ (TrapApplies s p.2.1 p.2.2.1 → s.inp.higherPrio = true →
        exec p.1 s = .refused .higherPriorityExceptionOutsideSpec)
    ∧ (¬ TrapApplies s p.2.1 p.2.2.1 → exec p.1 s = .refused .untrappedWriteOutsideSpec)

/-- A trapped write depends on its own bit only: with any other value of HFGWTR2_EL2 that has the same bit there, it
traps or is refused alike. -/
def Obligations.TrapReadsOnlyItsOwnBit : Prop :=
  ∀ (s : State) (t : RegNum) (v : Word) (p : Instr × Nat × (Config → Bool) × BitVec 6), p ∈ trappedWrites t →
    v.getLsbD p.2.1 = s.hfgwtr2.getLsbD p.2.1 →
    exec p.1 { s with hfgwtr2 := v } = (match exec p.1 s with
      | .next s' => .next { s' with hfgwtr2 := v }
      | .fault r => .fault r
      | .refused r => .refused r)

/-- The ignore clause (R27): with EL3 implemented and `SCR_EL3.FGTEn2 == 0` the stored register plays no part; a write
at EL1 with EL2 enabled and its feature implemented, the conditions of R70, traps under `treated_as_zero` and is not
trapped under `no_trap`. The parameter is decision D5 (log entry 11, DESIGN CHOICE); that the write not trapped is refused
as `untrappedWriteOutsideSpec` is R70's treatment by decision D24 (log entry 22, DESIGN CHOICE). -/
def Obligations.IgnoredFieldsByParameter : Prop :=
  ∀ (s : State) (t : RegNum) (p : Instr × Nat × (Config → Bool) × BitVec 6), p ∈ trappedWrites t → Present s →
    p.2.2.1 s.cfg = true → s.inp.el2Enabled = true → s.pstate.el = .el1 → s.pstate.aarch64 = true →
    s.inp.higherPrio = false → LockedByEL3 s → ∀ v : Word,
    (s.cfg.fgtEn2ZeroMeans = .treatedAsZero → ∃ s', exec p.1 { s with hfgwtr2 := v } = .next s')
    ∧ (s.cfg.fgtEn2ZeroMeans = .noTrap →
        exec p.1 { s with hfgwtr2 := v } = .refused .untrappedWriteOutsideSpec)

/-- The MSR and the MSRR of RCWSMASK_EL1 are armed by one bit: one traps where the other does, with the classes `0x18`
and `0x14` (R25, R84). That the class stands in ESR_EL2 is the entry of log entry 15 (PRESUMED). -/
def Obligations.RcwsmaskWritesArmedTogether : Prop :=
  ∀ (s : State) (t u : RegNum),
    ((∃ s1, exec (.msrRCWSMASK t) s = .next s1) ↔ ∃ s2, exec (.msrrRCWSMASK u) s = .next s2)
    ∧ (∀ s1, exec (.msrRCWSMASK t) s = .next s1 → s1.exc2.esr.ec = 0x18#6)
    ∧ (∀ s2, exec (.msrrRCWSMASK u) s = .next s2 → s2.exc2.esr.ec = 0x14#6)

/-- The syndrome of a trapped MSR write whose encoding is supplied (R92): the tuple, `Rt`, a write. R92's layout is its
passage from general knowledge (assumption 18). -/
def Obligations.TrappedMsrSyndrome : Prop :=
  ∀ (s s' : State) (i : Instr) (f : TrapField) (e : SysRegEnc), i.trapField = some f → (∀ t, i ≠ .msrrRCWSMASK t) →
    s.cfg.encOf f = some e → exec i s = .next s' →
    s'.exc2.esr.ec = 0x18#6 ∧ s'.exc2.esr.il = 1#1
      ∧ s'.exc2.esr.iss = 0#3 ++ e.op0 ++ e.op2 ++ e.op1 ++ e.crn ++ i.rt ++ e.crm ++ 0#1

/-- R47: a value written on the direct path governs the traps. In a state with the register as the write left it, at EL1
with `SynchronizedAfterWrite`, each write whose feature is implemented traps exactly when the value written has 0 at
its bit, where the field is not ignored. That a write not trapped does not answer a next state is decision D24 (log entry
22, DESIGN CHOICE). -/
def Obligations.SynchronizedWriteGoverns : Prop :=
  ∀ (s s1 s2 : State) (t u : RegNum) (p : Instr × Nat × (Config → Bool) × BitVec 6), p ∈ trappedWrites u →
    DirectCondition s → exec (.msrHFGWTR2 t) s = .next s1 → s2.cfg = s1.cfg → s2.hfgwtr2 = s1.hfgwtr2 →
    SynchronizedAfterWrite s2 → s2.cfg.haveEL2 = true → p.2.2.1 s2.cfg = true → s2.inp.el2Enabled = true →
    s2.pstate.el = .el1 → s2.pstate.aarch64 = true → s2.inp.higherPrio = false → ¬ LockedByEL3 s2 →
    ((∃ s3, exec p.1 s2 = .next s3) ↔ (s.x t).getLsbD p.2.1 = false)

/-! ## Exceptions -/

/-- R91, R94: WHAT AN INSTRUCTION CAN DO. Where it answers a next state, either it completed (PSTATE and the exception
registers unchanged, the program counter past it), or it was UNDEFINED, or it trapped with one of the pairs
(EL2, `0x18`), (EL2, `0x14`), (EL3, `0x18`), the class `0x14` for the MSRR alone; and on every exception no state in
scope changed. The class `0x00` of UNDEFINED and the entry are assumptions 15 and 16. -/
def Obligations.ExceptionsThatOccur : Prop :=
  ∀ (i : Instr) (s s' : State), exec i s = .next s' →
    (ExceptionStateKept s s' ∧ s'.pc = s.pc + 4#64 ∧ i.trapField = none)
    ∨ (∃ tgt, EnteredException tgt 0x00#6 s s' ∧ i.trapField = none)
    ∨ (EnteredException .el2 0x18#6 s s' ∧ ∀ t, i ≠ .msrrRCWSMASK t)
    ∨ (EnteredException .el2 0x14#6 s s' ∧ ∃ t, i = .msrrRCWSMASK t)
    ∨ (EnteredException .el3 0x18#6 s s' ∧ i.trapField = none)

/-- R93: the class `0x14` is reported for exactly one instruction, the trapped MSRR write of RCWSMASK_EL1, to EL2. Any
other instruction that answers a next state took no exception or reported another class to the level it entered. Where
the class is recorded and that PSTATE.EL becomes the target level is the entry of log entry 15 (PRESUMED). -/
def Obligations.Class14IsTheMsrr : Prop :=
  ∀ (s s' : State) (i : Instr), exec i s = .next s' →
    ((∃ t, i = .msrrRCWSMASK t) → s'.pstate.el = .el2 ∧ s'.exc2.esr.ec = 0x14#6)
    ∧ ((∀ t, i ≠ .msrrRCWSMASK t) → ExceptionStateKept s s'
      ∨ ∃ tgt : TargetEL, s'.pstate.el = tgt.level ∧ (s'.bank tgt).esr.ec ≠ 0x14#6)

/-- No instruction lowers the Exception level: levels are entered by an exception and left by a return (R99's passage),
which is outside the instructions of the spec. Of an exception this is the model's choice: PSTATE.EL becomes the target
level by R97's passage (log entry 15, PRESUMED), and the target of an UNDEFINED access is R90's passage, which decision
D15 does not adopt (log entry 16, PRESUMED). -/
def Obligations.InstructionsNeverLowerLevel : Prop :=
  ∀ (i : Instr) (s s' : State), exec i s = .next s' → s.pstate.el.rank ≤ s'.pstate.el.rank

/-- An exception entry and the environment's return restore PSTATE and the program counter. Both are the model's choice
from R97's passage and R98 (assumptions 15 and 19). -/
def Obligations.EntryThenReturnRestores : Prop :=
  ∀ (s : State) (tgt : TargetEL) (y : Syndrome), s.pstate.el.rank ≤ tgt.level.rank →
    s.cfg.implements s.pstate.el = true →
    ∃ s', exceptionReturn (takeException tgt y s) = .next s' ∧ s'.pstate = s.pstate ∧ s'.pc = s.pc
      ∧ s'.hfgwtr2 = s.hfgwtr2 ∧ RegistersKept s s' ∧ MemoryKept s s' ∧ FixedKept s s'

/-! ## The register's bits and reset -/

/-- R11, R29: which bits `WMASK` holds. -/
def Obligations.WmaskBits : Prop :=
  ∀ (c : Config) (k : Nat), (wmask c).getLsbD k = true ↔
    c.haveEL2 = true ∧ ((3 ≤ k ∧ k ≤ 14 ∧ c.featSRMASK = true) ∨ (k = 2 ∧ c.featTHE = true)
      ∨ (k = 0 ∧ c.featPFAR = true))

/-- R29: without EL2 the register is RES0 from EL3. At EL3, MRS reads 0 unless the policy stores RES0 bits, MSR stores 0
under `raz_wi` and is accepted under `refuse` only where it writes 0 (R61 corner case e, R62 corner case d). The policy is decision D2 (log entry 10, DESIGN CHOICE). -/
def Obligations.WithoutEL2RegisterIsRes0 : Prop :=
  ∀ (s : State) (t : RegNum), Present s → s.cfg.haveEL2 = false → s.pstate.el = .el3 →
    (s.cfg.res0Policy ≠ .stored → ∃ s', exec (.mrsHFGWTR2 t) s = .next s' ∧ s'.x t = 0#64)
    ∧ (s.cfg.res0Policy = .razWi → ∃ s', exec (.msrHFGWTR2 t) s = .next s' ∧ s'.hfgwtr2 = 0#64)
    ∧ (s.cfg.res0Policy = .refuse →
      if s.x t = 0#64 then ∃ s', exec (.msrHFGWTR2 t) s = .next s' ∧ s'.hfgwtr2 = 0#64
      else exec (.msrHFGWTR2 t) s = .refused .writeOneToRes0)

/-- R28 and R111: what a Warm reset, and (decision D4, R110: the spec's choice) a Cold reset, leaves in HFGWTR2_EL2: 0
where the highest implemented Exception level is EL2; else each implemented field the draw, and each bit outside
`WMASK` 0, or the draw under `stored`. No memory behind NVMem holds a value (R33). -/
def Obligations.ResetLeavesRegister : Prop :=
  ∀ (s : State) (b : Boot) (m : EnvMove) (es : List EnvEvent), m = .warmReset b ∨ m = .coldReset b →
    s.env = .move m :: es →
    ∃ s', step s = .next s' ∧ s'.cfg = s.cfg ∧ s'.env = es ∧ s'.nvCell = none ∧ s'.mem = []
      ∧ (s.cfg.haveEL2 = true → s.cfg.haveEL3 = false → s'.hfgwtr2 = 0#64)
      ∧ (¬ (s.cfg.haveEL2 = true ∧ s.cfg.haveEL3 = false) → ∀ k, s'.hfgwtr2.getLsbD k
          = (b.draw.getLsbD k && (decide (s.cfg.res0Policy = .stored) || (wmask s.cfg).getLsbD k)))

/-- The reset state of the model is what the reset of its configuration leaves; its register is the 0 of R28, and no
memory holds a value (R33). The other boot values are the model's choice (assumptions 1, 6, 7, 8). -/
def Obligations.ResetStateIsABoot : Prop :=
  (∃ b, State.reset = bootState Config.default b [] [] 0) ∧ State.reset.hfgwtr2 = 0#64 ∧ State.reset.nvCell = none
    ∧ State.reset.mem = [] ∧ State.reset.cfg.highestEL = .el2 ∧ State.reset.pstate.el = .el2

/-! ## The machine -/

/-- The reset state meets the invariant. -/
def Obligations.ResetMeetsInvariant : Prop := Inv State.reset

/-- AN INVARIANT THAT EVERY STEP KEEPS: the RES0 bits stay 0 under `refuse` and `raz_wi` (R12), PSTATE.EL stays an
implemented level and the inputs consistent (decision D23), instruction addresses stay aligned (R51), memory stays
canonical and apart from the program text (R48). -/
def Obligations.StepKeepsInvariant : Prop :=
  ∀ s s' : State, Inv s → step s = .next s' → Inv s'

/-- No step changes the configuration (R2) or the program text (R48). -/
def Obligations.StepKeepsConfigAndText : Prop :=
  ∀ s s' : State, step s = .next s' → s'.cfg = s.cfg ∧ s'.text = s.text

/-- The inputs of R3 other than PSTATE.EL and AArch64 are read and never written by an instruction (R3), and no
instruction changes the environment's schedule, the model's own list (log entry 20, DESIGN CHOICE). PSTATE is left
out: an exception entry writes PSTATE.EL (log entry 15). -/
def Obligations.InstructionsNeverWriteInputs : Prop :=
  ∀ (i : Instr) (s s' : State), exec i s = .next s' → s'.inp = s.inp ∧ s'.env = s.env

/-- THE REGISTER IS CHANGED BY NOTHING ELSE: where a step changes HFGWTR2_EL2, it is a reset, or it runs
`MSR HFGWTR2_EL2, <Xt>` at EL2 or EL3 (R10, R62, R99). -/
def Obligations.OnlyDirectWriteOrResetChanges : Prop :=
  ∀ s s' : State, step s = .next s' → s'.hfgwtr2 ≠ s.hfgwtr2 →
    (∃ b es, s.env = .move (.warmReset b) :: es ∨ s.env = .move (.coldReset b) :: es)
    ∨ ((s.env = [] ∨ ∃ es, s.env = .instr :: es) ∧ (s.pstate.el = .el2 ∨ s.pstate.el = .el3)
      ∧ ∃ bs t rest, fetch s = .next bs ∧ decode s.cfg bs = .ok (.msrHFGWTR2 t, rest))

/-- A STEP RUNS THE DECODED INSTRUCTION: where an instruction step is next, in AArch64 state, and the four bytes of the
program text at the aligned program counter decode to `i`, a step is `exec i`, which moves the program counter itself, in
the state whose schedule has moved past this step. -/
def Obligations.StepRunsDecoded : Prop :=
  ∀ (s u : State) (b0 b1 b2 b3 : Byte) (i : Instr) (rest : List Byte), InstructionNext s u →
    s.pstate.aarch64 = true →
    s.pc.toNat % 4 = 0 → s.text.read s.pc.toNat = some b0 → s.text.read (s.pc.toNat + 1) = some b1 →
    s.text.read (s.pc.toNat + 2) = some b2 → s.text.read (s.pc.toNat + 3) = some b3 →
    decode s.cfg [b0, b1, b2, b3] = .ok (i, rest) → step s = exec i u

/-- A word placed at the program counter is what the next step runs, little-endian (R51). -/
def Obligations.PlacedWordRuns : Prop :=
  ∀ (s : State) (w : InstrWord) (i : Instr), s.pc.toNat % 4 = 0 → s.pstate.aarch64 = true →
    decodeWord s.cfg w = .ok i →
    step (s.withFetchWord 32 w.toNat) = exec i (s.withFetchWord 32 w.toNat)

/-- Bytes that decode to nothing are refused, neither UNDEFINED nor a no-op (R54). -/
def Obligations.UndecodedWordRefused : Prop :=
  ∀ (s : State) (w : InstrWord) (r : DecodeRefusal), s.pc.toNat % 4 = 0 → s.pstate.aarch64 = true →
    decodeWord s.cfg w = .error r → step (s.withFetchWord 32 w.toNat) = .refused (.undecodable r)

/-- Where the fetch stops: at a program counter that is no multiple of 4, and else where one of the four bytes is not in
the program text. Both stops are the model's (assumption 24), and so is their order (assumption 31). -/
def Obligations.FetchStops : Prop :=
  ∀ s u : State, InstructionNext s u → s.pstate.aarch64 = true →
    (s.pc.toNat % 4 ≠ 0 → step s = .fault .fetchMisaligned)
    ∧ (∀ i, s.pc.toNat % 4 = 0 → i < 4 → s.text.read (s.pc.toNat + i) = none → step s = .fault .fetchNoText)

/-- The move that the environment's schedule has next is made before a later instruction runs (R3; the schedule is the
model's choice, assumption 20), and a Context synchronization event ends the wait of a direct write (R47). -/
def Obligations.EnvironmentMovesFirst : Prop :=
  ∀ (s : State) (m : EnvMove) (es : List EnvEvent), s.env = .move m :: es →
    step s = applyMove m { s with env := es }
    ∧ (m = .contextSync → ∃ s', step s = .next s' ∧ SynchronizedAfterWrite s' ∧ s'.hfgwtr2 = s.hfgwtr2)

/-- A step of an instruction with PSTATE not in AArch64 state is refused (decision D25; log entry 23, DESIGN CHOICE). -/
def Obligations.Aarch32StepRefused : Prop :=
  ∀ s u : State, InstructionNext s u → s.pstate.aarch64 = false → step s = .refused .aarch32State

/-! ## Instruction steps and moves of the environment -/

/-- Every step that answers a next state takes exactly one event off the environment's schedule, a reset and an exception
entry included, so a schedule is followed in its order (R3; the schedule is the model's choice, assumption 20). -/
def Obligations.StepTakesOneEvent : Prop :=
  ∀ s s' : State, step s = .next s' → s'.env = s.env.tail

/-- R95, decision D22: a move of the environment falls between two instruction steps of a run. With an instruction, a move
and an instruction scheduled, the run is the instruction at the program counter, then the move on the state it left, then
the instruction at the program counter of the state the move left, whatever the schedule holds after them. -/
def Obligations.MoveFallsBetweenInstructions : Prop :=
  ∀ (s s1 s2 : State) (m : EnvMove) (es : List EnvEvent), s.env = .instr :: .move m :: .instr :: es →
    step s = .next s1 → step s1 = .next s2 →
    (∃ bs i rest, fetch s = .next bs ∧ decode s.cfg bs = .ok (i, rest)
      ∧ exec i { s with env := .move m :: .instr :: es } = .next s1)
    ∧ applyMove m { s1 with env := .instr :: es } = .next s2
    ∧ ∀ bs i rest, s2.pstate.aarch64 = true → fetch s2 = .next bs → decode s2.cfg bs = .ok (i, rest) →
        step s2 = exec i { s2 with env := es }

/-- R95, decision D22: there is no interrupt. A step that answers a next state is a move of the environment or the `exec`
of the instruction at the program counter, and nothing else. -/
def Obligations.StepIsInstructionOrMove : Prop :=
  ∀ s s' : State, step s = .next s' →
    (∃ m es, s.env = .move m :: es ∧ applyMove m { s with env := es } = .next s')
    ∨ (∃ u bs i rest, InstructionNext s u ∧ s.pstate.aarch64 = true ∧ fetch s = .next bs
        ∧ decode s.cfg bs = .ok (i, rest) ∧ exec i u = .next s')

/-- R87: no access at EL0, EL2 or EL3 and none in AArch32 state is trapped by the register; bits [63:15] and bit [1] trap
nothing, for two values that agree at the 14 named bits give every write the same outcome of the check (derived in R87
from R12 to R26); and no read is trapped by the register: the path of an MRS of HFGWTR2_EL2, the one read the spec has,
does not depend on its value (R60 fact 6, derived there). -/
def Obligations.NothingElseIsTrapped : Prop :=
  ∀ (s : State) (f : TrapField) (v : Word),
    (writeTrapCheck f s = .trap → s.pstate.el = .el1 ∧ s.pstate.aarch64 = true)
    ∧ ((∀ k, k = 0 ∨ (2 ≤ k ∧ k ≤ 14) → v.getLsbD k = s.hfgwtr2.getLsbD k) →
        writeTrapCheck f { s with hfgwtr2 := v } = writeTrapCheck f s)
    ∧ accessPath { s with hfgwtr2 := v } = accessPath s

/-- R70, the function: `FGT2WriteTrap` of each field has each of its three outcomes under exactly the conditions the rule
gives, in the model's terms for the rule's `Armed(f)` and `Feature(f)`, `armed` and `fieldFeature`. The first four tests
lead to one outcome in any order, and `higher_prio` decides only where the trap would otherwise be taken. -/
def Obligations.FgtCheckIsR70 : Prop :=
  ∀ (s : State) (f : TrapField),
    (fgt2WriteTrap f s = .trap ↔ Present s ∧ fieldFeature s.cfg f = true ∧ s.inp.el2Enabled = true
      ∧ armed f s = true ∧ s.inp.higherPrio = false)
    ∧ (fgt2WriteTrap f s = .higherPriority ↔ Present s ∧ fieldFeature s.cfg f = true ∧ s.inp.el2Enabled = true
      ∧ armed f s = true ∧ s.inp.higherPrio = true)
    ∧ (fgt2WriteTrap f s = .notTrappedHere ↔ ¬ (Present s ∧ fieldFeature s.cfg f = true ∧ s.inp.el2Enabled = true
      ∧ armed f s = true))

/-- R102, the control from EL3. With EL3 implemented and `SCR_EL3.FGTEn2 == '0'`: (a) every field is ignored, its stored bit
without effect on `Armed`, and treated as zero, which arms it, in the literal reading of the clause (the parameter's
`treated_as_zero`; decision D5 has another); (b) an access at EL2 is trapped to EL3, or UNDEFINED under `sdd_prio` or
`sdd`. (c) At EL3 and at EL1 the bit changes no path. With the bit 1, or without EL3, the stored bit decides `Armed`, and
an access at EL2 is direct. -/
def Obligations.El3ControlIsR102 : Prop :=
  ∀ (s : State) (f : TrapField) (v : Word) (b : BitVec 1),
    (LockedByEL3 s → armed f { s with hfgwtr2 := v } = armed f s
      ∧ (s.cfg.fgtEn2ZeroMeans = .treatedAsZero → armed f s = true))
    ∧ (Present s → s.pstate.el = .el2 → LockedByEL3 s →
        accessPath s = if s.inp.sddPrio = true ∨ s.inp.sdd = true then .undefined else .trapEL3)
    ∧ (s.pstate.el = .el3 ∨ s.pstate.el = .el1 →
        accessPath { s with inp := { s.inp with fgtEn2 := b } } = accessPath s)
    ∧ (s.inp.fgtEn2 = 1#1 ∨ s.cfg.haveEL3 = false →
        armed f s = !s.hfgwtr2.getLsbD (fieldBit f)
        ∧ (Present s → s.pstate.el = .el2 → accessPath s = .direct))
end

