-- ==== Sys2Proof/Laws/State.lean ====
section
/-! SUPPORT. Laws/State.lean: what each update of the state leaves in each field, so that no proof unfolds one. -/

namespace Sys2Proof.Machine

/-! ## Writing a general register -/

@[simp] theorem setX_cfg (s : State) (t : RegNum) (v : Word) : (s.setX t v).cfg = s.cfg := rfl
@[simp] theorem setX_hfgwtr2 (s : State) (t : RegNum) (v : Word) : (s.setX t v).hfgwtr2 = s.hfgwtr2 := rfl
@[simp] theorem setX_gpr (s : State) (t : RegNum) (v : Word) : (s.setX t v).gpr = s.gpr.setIfInBounds t.toNat v := rfl
@[simp] theorem setX_pc (s : State) (t : RegNum) (v : Word) : (s.setX t v).pc = s.pc := rfl
@[simp] theorem setX_pstate (s : State) (t : RegNum) (v : Word) : (s.setX t v).pstate = s.pstate := rfl
@[simp] theorem setX_inp (s : State) (t : RegNum) (v : Word) : (s.setX t v).inp = s.inp := rfl
@[simp] theorem setX_exc1 (s : State) (t : RegNum) (v : Word) : (s.setX t v).exc1 = s.exc1 := rfl
@[simp] theorem setX_exc2 (s : State) (t : RegNum) (v : Word) : (s.setX t v).exc2 = s.exc2 := rfl
@[simp] theorem setX_exc3 (s : State) (t : RegNum) (v : Word) : (s.setX t v).exc3 = s.exc3 := rfl
@[simp] theorem setX_text (s : State) (t : RegNum) (v : Word) : (s.setX t v).text = s.text := rfl
@[simp] theorem setX_mem (s : State) (t : RegNum) (v : Word) : (s.setX t v).mem = s.mem := rfl
@[simp] theorem setX_nvCell (s : State) (t : RegNum) (v : Word) : (s.setX t v).nvCell = s.nvCell := rfl
@[simp] theorem setX_unsynced (s : State) (t : RegNum) (v : Word) : (s.setX t v).unsynced = s.unsynced := rfl
@[simp] theorem setX_free (s : State) (t : RegNum) (v : Word) : (s.setX t v).free = s.free := rfl
@[simp] theorem setX_env (s : State) (t : RegNum) (v : Word) : (s.setX t v).env = s.env := rfl

/-! ## Advancing the program counter -/

@[simp] theorem advancePc_cfg (s : State) : (s.advancePc).cfg = s.cfg := rfl
@[simp] theorem advancePc_hfgwtr2 (s : State) : (s.advancePc).hfgwtr2 = s.hfgwtr2 := rfl
@[simp] theorem advancePc_gpr (s : State) : (s.advancePc).gpr = s.gpr := rfl
@[simp] theorem advancePc_pc (s : State) : (s.advancePc).pc = s.pc + 4#64 := rfl
@[simp] theorem advancePc_pstate (s : State) : (s.advancePc).pstate = s.pstate := rfl
@[simp] theorem advancePc_inp (s : State) : (s.advancePc).inp = s.inp := rfl
@[simp] theorem advancePc_exc1 (s : State) : (s.advancePc).exc1 = s.exc1 := rfl
@[simp] theorem advancePc_exc2 (s : State) : (s.advancePc).exc2 = s.exc2 := rfl
@[simp] theorem advancePc_exc3 (s : State) : (s.advancePc).exc3 = s.exc3 := rfl
@[simp] theorem advancePc_text (s : State) : (s.advancePc).text = s.text := rfl
@[simp] theorem advancePc_mem (s : State) : (s.advancePc).mem = s.mem := rfl
@[simp] theorem advancePc_nvCell (s : State) : (s.advancePc).nvCell = s.nvCell := rfl
@[simp] theorem advancePc_unsynced (s : State) : (s.advancePc).unsynced = s.unsynced := rfl
@[simp] theorem advancePc_free (s : State) : (s.advancePc).free = s.free := rfl
@[simp] theorem advancePc_env (s : State) : (s.advancePc).env = s.env := rfl

/-! ## Moving past a free value -/

@[simp] theorem tick_cfg (s : State) : (s.tick).cfg = s.cfg := rfl
@[simp] theorem tick_hfgwtr2 (s : State) : (s.tick).hfgwtr2 = s.hfgwtr2 := rfl
@[simp] theorem tick_gpr (s : State) : (s.tick).gpr = s.gpr := rfl
@[simp] theorem tick_pc (s : State) : (s.tick).pc = s.pc := rfl
@[simp] theorem tick_pstate (s : State) : (s.tick).pstate = s.pstate := rfl
@[simp] theorem tick_inp (s : State) : (s.tick).inp = s.inp := rfl
@[simp] theorem tick_exc1 (s : State) : (s.tick).exc1 = s.exc1 := rfl
@[simp] theorem tick_exc2 (s : State) : (s.tick).exc2 = s.exc2 := rfl
@[simp] theorem tick_exc3 (s : State) : (s.tick).exc3 = s.exc3 := rfl
@[simp] theorem tick_text (s : State) : (s.tick).text = s.text := rfl
@[simp] theorem tick_mem (s : State) : (s.tick).mem = s.mem := rfl
@[simp] theorem tick_nvCell (s : State) : (s.tick).nvCell = s.nvCell := rfl
@[simp] theorem tick_unsynced (s : State) : (s.tick).unsynced = s.unsynced := rfl
@[simp] theorem tick_free (s : State) : (s.tick).free = s.free + 1 := rfl
@[simp] theorem tick_env (s : State) : (s.tick).env = s.env := rfl

/-! ## Writing an exception bank -/

@[simp] theorem setBank_cfg (s : State) (tgt : TargetEL) (b : ExcBank) : (s.setBank tgt b).cfg = s.cfg := by cases tgt <;> rfl
@[simp] theorem setBank_hfgwtr2 (s : State) (tgt : TargetEL) (b : ExcBank) : (s.setBank tgt b).hfgwtr2 = s.hfgwtr2 := by cases tgt <;> rfl
@[simp] theorem setBank_gpr (s : State) (tgt : TargetEL) (b : ExcBank) : (s.setBank tgt b).gpr = s.gpr := by cases tgt <;> rfl
@[simp] theorem setBank_pc (s : State) (tgt : TargetEL) (b : ExcBank) : (s.setBank tgt b).pc = s.pc := by cases tgt <;> rfl
@[simp] theorem setBank_pstate (s : State) (tgt : TargetEL) (b : ExcBank) : (s.setBank tgt b).pstate = s.pstate := by cases tgt <;> rfl
@[simp] theorem setBank_inp (s : State) (tgt : TargetEL) (b : ExcBank) : (s.setBank tgt b).inp = s.inp := by cases tgt <;> rfl
@[simp] theorem setBank_text (s : State) (tgt : TargetEL) (b : ExcBank) : (s.setBank tgt b).text = s.text := by cases tgt <;> rfl
@[simp] theorem setBank_mem (s : State) (tgt : TargetEL) (b : ExcBank) : (s.setBank tgt b).mem = s.mem := by cases tgt <;> rfl
@[simp] theorem setBank_nvCell (s : State) (tgt : TargetEL) (b : ExcBank) : (s.setBank tgt b).nvCell = s.nvCell := by cases tgt <;> rfl
@[simp] theorem setBank_unsynced (s : State) (tgt : TargetEL) (b : ExcBank) : (s.setBank tgt b).unsynced = s.unsynced := by cases tgt <;> rfl
@[simp] theorem setBank_free (s : State) (tgt : TargetEL) (b : ExcBank) : (s.setBank tgt b).free = s.free := by cases tgt <;> rfl
@[simp] theorem setBank_env (s : State) (tgt : TargetEL) (b : ExcBank) : (s.setBank tgt b).env = s.env := by cases tgt <;> rfl

@[simp] theorem bank_setBank (s : State) (tgt : TargetEL) (b : ExcBank) : (s.setBank tgt b).bank tgt = b := by
  cases tgt <;> rfl

theorem bank_setBank_of_ne (s : State) (tgt r : TargetEL) (b : ExcBank) (h : r ≠ tgt) :
    (s.setBank tgt b).bank r = s.bank r := by
  cases tgt <;> cases r <;> first | rfl | exact absurd rfl h

@[simp] theorem bank_tick (s : State) (r : TargetEL) : s.tick.bank r = s.bank r := by cases r <;> rfl

@[simp] theorem bank_setX (s : State) (t : RegNum) (v : Word) (r : TargetEL) : (s.setX t v).bank r = s.bank r := by
  cases r <;> rfl

@[simp] theorem bank_advancePc (s : State) (r : TargetEL) : s.advancePc.bank r = s.bank r := by cases r <;> rfl

/-! ## Taking an exception -/

@[simp] theorem takeException_cfg (tgt : TargetEL) (y : Syndrome) (s : State) : (takeException tgt y s).cfg = s.cfg := by cases tgt <;> rfl
@[simp] theorem takeException_hfgwtr2 (tgt : TargetEL) (y : Syndrome) (s : State) : (takeException tgt y s).hfgwtr2 = s.hfgwtr2 := by cases tgt <;> rfl
@[simp] theorem takeException_gpr (tgt : TargetEL) (y : Syndrome) (s : State) : (takeException tgt y s).gpr = s.gpr := by cases tgt <;> rfl
@[simp] theorem takeException_pc (tgt : TargetEL) (y : Syndrome) (s : State) : (takeException tgt y s).pc = vectorAddress (s.bank tgt).vbar s.pstate tgt := by cases tgt <;> rfl
@[simp] theorem takeException_pstate (tgt : TargetEL) (y : Syndrome) (s : State) : (takeException tgt y s).pstate = { s.pstate with el := tgt.level, intMasked := true } := by cases tgt <;> rfl
@[simp] theorem takeException_inp (tgt : TargetEL) (y : Syndrome) (s : State) : (takeException tgt y s).inp = s.inp := by cases tgt <;> rfl
@[simp] theorem takeException_text (tgt : TargetEL) (y : Syndrome) (s : State) : (takeException tgt y s).text = s.text := by cases tgt <;> rfl
@[simp] theorem takeException_mem (tgt : TargetEL) (y : Syndrome) (s : State) : (takeException tgt y s).mem = s.mem := by cases tgt <;> rfl
@[simp] theorem takeException_nvCell (tgt : TargetEL) (y : Syndrome) (s : State) : (takeException tgt y s).nvCell = s.nvCell := by cases tgt <;> rfl
@[simp] theorem takeException_unsynced (tgt : TargetEL) (y : Syndrome) (s : State) : (takeException tgt y s).unsynced = false := by cases tgt <;> rfl
@[simp] theorem takeException_free (tgt : TargetEL) (y : Syndrome) (s : State) : (takeException tgt y s).free = s.free := by cases tgt <;> rfl
@[simp] theorem takeException_env (tgt : TargetEL) (y : Syndrome) (s : State) : (takeException tgt y s).env = s.env := by cases tgt <;> rfl

@[simp] theorem takeException_bank (tgt : TargetEL) (y : Syndrome) (s : State) :
    (takeException tgt y s).bank tgt = { s.bank tgt with esr := y, elr := s.pc, spsr := s.pstate } := by
  cases tgt <;> rfl

theorem takeException_bank_of_ne (tgt r : TargetEL) (y : Syndrome) (s : State) (h : r ≠ tgt) :
    (takeException tgt y s).bank r = s.bank r := by
  cases tgt <;> cases r <;> first | rfl | exact absurd rfl h

/-! ## Reading a general register -/

/-- What `x[r]` reads after `x[t] <- v`: the zero register keeps reading 0 (R30). -/
theorem x_setX (s : State) (t r : RegNum) (v : Word) :
    (s.setX t v).x r = if r = t ∧ t ≠ 31#5 then v else s.x r := by
  by_cases hrt : r = t
  · subst hrt
    by_cases h31 : r = 31#5
    · subst h31; simp [State.x, State.setX]
    · have hlt : r.toNat < 31 := by
        have hlt' := r.isLt
        have hne : r.toNat ≠ 31 := fun h => h31 (BitVec.eq_of_toNat_eq h)
        omega
      simp [State.x, State.setX, hlt, h31]
  · have hne : t.toNat ≠ r.toNat := fun h => hrt (BitVec.eq_of_toNat_eq h).symm
    simp only [State.x, State.setX, hrt, false_and, if_false]
    rw [Vector.getElem?_setIfInBounds_ne hne]

/-- The zero register reads as 0 (R30). -/
@[simp] theorem x_31 (s : State) : s.x 31#5 = 0#64 := by simp [State.x]

/-- `x[31] <- v` changes nothing (R30). -/
theorem setX_31 (s : State) (v : Word) : s.setX 31#5 v = s := by
  have h : s.gpr.setIfInBounds 31 v = s.gpr := by
    apply Vector.ext
    intro i hi
    rw [Vector.getElem_setIfInBounds_ne hi (by omega)]
  unfold State.setX
  rw [show (31#5 : RegNum).toNat = 31 from rfl, h]

@[simp] theorem x_advancePc (s : State) (r : RegNum) : s.advancePc.x r = s.x r := rfl

@[simp] theorem x_takeException (tgt : TargetEL) (y : Syndrome) (s : State) (r : RegNum) :
    (takeException tgt y s).x r = s.x r := by cases tgt <;> rfl

/-! ## Reading a byte -/

@[simp] theorem byteAt_setX (s : State) (t : RegNum) (v : Word) (a : Nat) : (s.setX t v).byteAt a = s.byteAt a := rfl

@[simp] theorem byteAt_advancePc (s : State) (a : Nat) : s.advancePc.byteAt a = s.byteAt a := rfl

@[simp] theorem byteAt_takeException (tgt : TargetEL) (y : Syndrome) (s : State) (a : Nat) :
    (takeException tgt y s).byteAt a = s.byteAt a := by cases tgt <;> rfl

end Sys2Proof.Machine
end

