-- ==== Sys2Proof/Laws/Memory.lean ====
section
/-! SUPPORT. Laws/Memory.lean: the laws of byte memory: a read after a write, the canonical form, runs of bytes, and
the byte order of a 64-bit value. -/

namespace Sys2Proof.Machine

/-- A read after a write: the byte written at its address, every other byte as before. -/
theorem Memory.read_write (m : Memory) (a r : Nat) (b : Byte) :
    (Memory.write m a b).read r = if r = a then some b else Memory.read m r := by
  induction m with
  | nil => simp only [Memory.write, Memory.read, eq_comm]
  | cons e rest ih =>
    obtain ⟨k, v⟩ := e
    by_cases h : r = a
    · subst h
      rw [if_pos rfl] at ih ⊢
      simp only [Memory.write]
      split
      · simp [Memory.read]
      · split
        · simp [Memory.read]
        · next h1 h2 => rw [Memory.read, if_neg (fun hk => h2 hk.symm), ih]
    · rw [if_neg h] at ih ⊢
      have h' : a ≠ r := fun e => h e.symm
      simp only [Memory.write]
      split
      · simp [Memory.read, h']
      · split
        · next h2 => subst h2; simp [Memory.read, h']
        · simp only [Memory.read, ih]

/-- Rising from a higher bound is rising from a lower one. -/
theorem Memory.risingFrom_mono {lo lo' : Nat} (h : lo' ≤ lo) (m : Memory) (hm : Memory.risingFrom lo m = true) :
    Memory.risingFrom lo' m = true := by
  cases m with
  | nil => rfl
  | cons e rest =>
    simp only [Memory.risingFrom, Bool.and_eq_true, decide_eq_true_eq] at hm ⊢
    exact ⟨by omega, hm.2⟩

/-- A write above the bound keeps the addresses rising from it. -/
theorem Memory.risingFrom_write (m : Memory) (lo a : Nat) (b : Byte) (ha : lo < a)
    (hm : Memory.risingFrom lo m = true) : Memory.risingFrom lo (Memory.write m a b) = true := by
  induction m generalizing lo with
  | nil => simp [Memory.write, Memory.risingFrom, ha]
  | cons e rest ih =>
    obtain ⟨k, v⟩ := e
    simp only [Memory.risingFrom, Bool.and_eq_true, decide_eq_true_eq] at hm
    simp only [Memory.write]
    split
    · next h => simp [Memory.risingFrom, ha, h, hm.2]
    · split
      · next h => subst h; simp [Memory.risingFrom, ha, hm.2]
      · next h1 h2 => simp [Memory.risingFrom, hm.1, ih k (by omega) hm.2]

/-- A write keeps the canonical form. -/
theorem Memory.wf_write (m : Memory) (a : Nat) (b : Byte) (hm : m.wf = true) : (Memory.write m a b).wf = true := by
  cases m with
  | nil => rfl
  | cons e rest =>
    obtain ⟨k, v⟩ := e
    simp only [Memory.wf] at hm
    simp only [Memory.write]
    split
    · next h => simp [Memory.wf, Memory.risingFrom, h, hm]
    · split
      · next h => subst h; simpa [Memory.wf] using hm
      · next h1 h2 => exact Memory.risingFrom_write rest k a b (by omega) hm

/-- A write of a run of bytes keeps the canonical form. -/
theorem Memory.wf_writeBytes (bs : List Byte) (m : Memory) (a : Nat) (hm : m.wf = true) :
    (Memory.writeBytes m a bs).wf = true := by
  induction bs generalizing m a with
  | nil => exact hm
  | cons b bs ih => exact ih _ _ (Memory.wf_write m a b hm)

/-- Outside the run, a write of a run of bytes leaves every byte as it was. -/
theorem Memory.read_writeBytes_outside (bs : List Byte) (m : Memory) (a r : Nat)
    (h : r < a ∨ a + bs.length ≤ r) : (Memory.writeBytes m a bs).read r = Memory.read m r := by
  induction bs generalizing m a with
  | nil => rfl
  | cons b bs ih =>
    simp only [List.length_cons] at h
    rw [Memory.writeBytes, ih _ _ (by omega), Memory.read_write, if_neg (by omega)]

/-- Inside the run, byte `i` of it is read back. -/
theorem Memory.read_writeBytes_inside (bs : List Byte) (m : Memory) (a i : Nat) (h : i < bs.length) :
    (Memory.writeBytes m a bs).read (a + i) = some bs[i] := by
  induction bs generalizing m a i with
  | nil => simp at h
  | cons b bs ih =>
    cases i with
    | zero =>
      rw [Memory.writeBytes, Memory.read_writeBytes_outside _ _ _ _ (by omega), Memory.read_write,
        Nat.add_zero, if_pos rfl]
      rfl
    | succ j =>
      rw [Memory.writeBytes, show a + (j + 1) = a + 1 + j by omega, ih _ _ _ (by simpa using h)]
      rfl

/-- Where no byte of a run is listed, each reads as nothing. -/
theorem Memory.read_of_not_listsAny (m : Memory) (n a i : Nat) (h : Memory.listsAny m a n = false) (hi : i < n) :
    m.read (a + i) = none := by
  induction n generalizing a i with
  | zero => omega
  | succ n ih =>
    simp only [Memory.listsAny, Bool.or_eq_false_iff] at h
    cases i with
    | zero => simpa using h.1
    | succ j =>
      rw [show a + (j + 1) = a + 1 + j by omega]
      exact ih _ _ h.2 (by omega)

/-- The bytes at `a` are those that each byte's read gives. -/
theorem State.bytesAt_eq_some (s : State) (bs : List Byte) (a : Nat)
    (h : ∀ i (hi : i < bs.length), s.byteAt (a + i) = some bs[i]) : s.bytesAt a bs.length = some bs := by
  induction bs generalizing a with
  | nil => rfl
  | cons b bs ih =>
    have h0 := h 0 (by simp)
    have hrest := ih (a + 1) (fun i hi => by
      have := h (i + 1) (by simpa using hi)
      rw [show a + 1 + i = a + (i + 1) by omega]
      simpa using this)
    simp only [List.length_cons, State.bytesAt]
    rw [show s.byteAt a = some b by simpa using h0, hrest]

/-- Split and joined again, a 64-bit value is itself. -/
theorem joinWord_splitWord (v : Word) : joinWord (splitWord v) = v := by
  simp only [joinWord, splitWord]
  rw [BitVec.extractLsb'_append_extractLsb'_eq_extractLsb' (by omega),
   BitVec.extractLsb'_append_extractLsb'_eq_extractLsb' (by omega),
   BitVec.extractLsb'_append_extractLsb'_eq_extractLsb' (by omega),
   BitVec.extractLsb'_append_extractLsb'_eq_extractLsb' (by omega),
   BitVec.extractLsb'_append_extractLsb'_eq_extractLsb' (by omega),
   BitVec.extractLsb'_append_extractLsb'_eq_extractLsb' (by omega),
   BitVec.extractLsb'_append_extractLsb'_eq_extractLsb' (by omega)]
  exact BitVec.extractLsb'_eq_self

/-- A 64-bit value is split into 8 bytes. -/
@[simp] theorem length_nvToBytes (m : NvMap) (v : Word) : (nvToBytes m v).length = 8 := by
  simp only [nvToBytes]; split <;> rfl

/-- In either byte order, the bytes of a value give it back (R42). -/
theorem nvOfBytes_nvToBytes (m : NvMap) (v : Word) : nvOfBytes m (nvToBytes m v) = v := by
  simp only [nvOfBytes, nvToBytes]
  split
  · rw [List.reverse_reverse, joinWord_splitWord]
  · exact joinWord_splitWord v

/-- An aligned image does not wrap around the address space (R43). -/
theorem nvAddress_add_lt (m : NvMap) (h : m.wf = true) : nvAddress m % 8 = 0 ∧ nvAddress m + 8 ≤ 2 ^ 64 := by
  have hb : m.base.toNat % 8 = 0 := by simpa [NvMap.wf, Word.isMultipleOf] using h
  have hl := m.base.isLt
  simp only [nvAddress, nvOffset, BitVec.toNat_add, BitVec.toNat_ofNat]
  omega

end Sys2Proof.Machine
end

