-- ==== Sys2Proof/Laws/Ops.lean ====
section
/-! SUPPORT. Laws/Ops.lean: for each shared operation, one lemma that says everything it can do where it answers a next
state, and what the trap check and the exception entry are. Proofs cite these instead of unfolding the operations. -/

namespace Sys2Proof.Machine

/-! ## The RES0 treatment -/

/-- A direct write that is accepted: what it stores under each policy (R12). -/
theorem res0Write_next {c : Config} {v w : Word} (h : res0Write c v = .next w) :
    (c.res0Policy = .refuse ∧ v &&& ~~~(wmask c) = 0#64 ∧ w = v)
      ∨ (c.res0Policy = .razWi ∧ w = v &&& wmask c) ∨ (c.res0Policy = .stored ∧ w = v) := by
  unfold res0Write at h
  split at h
  · next hp =>
    split at h
    · next hz => cases h; exact .inl ⟨hp, hz, rfl⟩
    · cases h
  · next hp => cases h; exact .inr (.inl ⟨hp, rfl⟩)
  · next hp => cases h; exact .inr (.inr ⟨hp, rfl⟩)

/-- A direct write never faults. -/
theorem res0Write_ne_fault (c : Config) (v : Word) (r : Fault) : res0Write c v ≠ .fault r := by
  unfold res0Write
  split
  · split <;> nofun
  · nofun
  · nofun

/-- A direct write is refused for one reason only. -/
theorem res0Write_refused {c : Config} {v : Word} {r : Refusal} (h : res0Write c v = .refused r) :
    c.res0Policy = .refuse ∧ v &&& ~~~(wmask c) ≠ 0#64 ∧ r = .writeOneToRes0 := by
  unfold res0Write at h
  split at h
  · next hp =>
    split at h
    · cases h
    · next hz => cases h; exact ⟨hp, hz, rfl⟩
  · cases h
  · cases h

/-- A masked value has no bit outside the mask. -/
theorem and_mask_clear (v m : Word) : v &&& m &&& ~~~m = 0#64 := by
  rw [BitVec.and_assoc, BitVec.and_not_self]; exact BitVec.and_zero

/-- What a value without bits outside the mask is under it. -/
theorem and_mask_of_clear {v m : Word} (h : v &&& ~~~m = 0#64) : v &&& m = v := by
  apply BitVec.eq_of_getLsbD_eq
  intro i hi
  have hb := congrArg (fun x : Word => x.getLsbD i) h
  simp only [BitVec.getLsbD_and, BitVec.getLsbD_not, BitVec.getLsbD_zero, hi, decide_true, Bool.true_and] at hb
  simp only [BitVec.getLsbD_and]
  cases hv : v.getLsbD i <;> cases hm : m.getLsbD i <;> simp_all

/-- Everything the direct write of the register can do (R62). -/
theorem writeHfgwtr2_next {v : Word} {s s' : State} (h : writeHfgwtr2 v s = .next s') :
    ∃ w, res0Write s.cfg v = .next w ∧ s' = { s with hfgwtr2 := w, unsynced := true } := by
  unfold writeHfgwtr2 at h
  split at h
  · next w hw => cases h; exact ⟨w, hw, rfl⟩
  · cases h
  · cases h

/-! ## The NVMem access -/

/-- Everything an NVMem read can do (R41). -/
theorem nvMemRead_next {s : State} {v : Word} (h : nvMemRead s = .next v) :
    s.inp.nvMemFault = false ∧
      ((s.cfg.nvMap = none ∧ s.nvCell = some v)
        ∨ ∃ m bs, s.cfg.nvMap = some m ∧ m.wf = true ∧ s.bytesAt (nvAddress m) 8 = some bs ∧ v = nvOfBytes m bs) := by
  unfold nvMemRead at h
  split at h
  · cases h
  · next hf =>
    refine ⟨by simpa using hf, ?_⟩
    split at h
    · next hm =>
      split at h
      · next w hc => cases h; exact .inl ⟨hm, hc⟩
      · cases h
    · next m hm =>
      split at h
      · next hw =>
        split at h
        · next bs hb => cases h; exact .inr ⟨m, bs, hm, hw, hb, rfl⟩
        · cases h
      · cases h

/-- Everything a store behind NVMem can do (R41, R48). -/
theorem nvMemStore_next {v : Word} {s s' : State} (h : nvMemStore v s = .next s') :
    (s.cfg.nvMap = none ∧ s' = { s with nvCell := some v })
      ∨ ∃ m, s.cfg.nvMap = some m ∧ m.wf = true ∧ s.text.listsAny (nvAddress m) 8 = false
          ∧ s' = { s with mem := s.mem.writeBytes (nvAddress m) (nvToBytes m v) } := by
  unfold nvMemStore at h
  split at h
  · next hm => cases h; exact .inl ⟨hm, rfl⟩
  · next m hm =>
    split at h
    · next hw =>
      split at h
      · cases h
      · next hl => cases h; exact .inr ⟨m, hm, hw, by simpa using hl, rfl⟩
    · cases h

/-- Everything an NVMem write can do (R41). -/
theorem nvMemWrite_next {v : Word} {s s' : State} (h : nvMemWrite v s = .next s') :
    s.inp.nvMemFault = false ∧ nvMemStore v s = .next s' := by
  unfold nvMemWrite at h
  split at h
  · cases h
  · next hf => exact ⟨by simpa using hf, h⟩

/-! ## Exceptions -/

/-- The vector address is that of an instruction word where VBAR is (R97, R51). -/
theorem vectorAddress_aligned (vbar : Word) (p : PState) (tgt : TargetEL) (h : vbar.isMultipleOf 4 = true) :
    (vectorAddress vbar p tgt).isMultipleOf 4 = true := by
  simp only [Word.isMultipleOf, beq_iff_eq, vectorAddress, BitVec.toNat_add, BitVec.toNat_append,
    Nat.shiftLeft_eq] at h ⊢
  have : ((Config.vectorIndex p tgt).toNat * 2 ^ 2 ||| (0#2).toNat) = (Config.vectorIndex p tgt).toNat * 4 := by
    simp
  rw [this]
  omega

/-- The next program counter is that of an instruction word where this one is (R64). -/
theorem add_four_aligned (pc : Word) (h : pc.isMultipleOf 4 = true) : (pc + 4#64).isMultipleOf 4 = true := by
  simp only [Word.isMultipleOf, beq_iff_eq, BitVec.toNat_add, BitVec.toNat_ofNat] at h ⊢
  omega

/-- The exception banks are those of the three levels. -/
theorem ext_banks {s s' : State} (h : ∀ r, s'.bank r = s.bank r) :
    s'.exc1 = s.exc1 ∧ s'.exc2 = s.exc2 ∧ s'.exc3 = s.exc3 := ⟨h .el1, h .el2, h .el3⟩

/-- Everything a return to saved state can do (R98). -/
theorem returnTo_next {b : ExcBank} {s s' : State} (h : returnTo b s = .next s') :
    b.spsr.el.rank ≤ s.pstate.el.rank ∧ s.cfg.implements b.spsr.el = true
      ∧ s' = { s with pstate := b.spsr, pc := b.elr, unsynced := false } := by
  unfold returnTo at h
  split at h
  · next hc => cases h; exact ⟨hc.1, hc.2, rfl⟩
  · cases h

/-- Everything an exception return can do (R98). -/
theorem exceptionReturn_next {s s' : State} (h : exceptionReturn s = .next s') :
    ∃ tgt : TargetEL, s.pstate.el = tgt.level ∧ returnTo (s.bank tgt) s = .next s' := by
  unfold exceptionReturn at h
  split at h
  · cases h
  · next he => exact ⟨.el1, he, h⟩
  · next he => exact ⟨.el2, he, h⟩
  · next he => exact ⟨.el3, he, h⟩

/-! ## The trap check -/

/-- The conditions under which the fine-grained trap applies, a higher-priority exception apart (R70, R87). -/
def trapArmedHere (f : TrapField) (s : State) : Bool :=
  s.cfg.present && fieldFeature s.cfg f && s.inp.el2Enabled && armed f s && decide (s.pstate.el = .el1)
    && s.pstate.aarch64

/-- The check says one of three things, by these conditions (R70). -/
theorem writeTrapCheck_eq (f : TrapField) (s : State) :
    writeTrapCheck f s = if trapArmedHere f s then (if s.inp.higherPrio then .higherPriority else .trap)
      else .notTrappedHere := by
  unfold writeTrapCheck fgt2WriteTrap trapArmedHere
  cases s.cfg.present <;> cases fieldFeature s.cfg f <;> cases s.inp.el2Enabled <;> cases armed f s <;>
    cases s.pstate.aarch64 <;> by_cases he : s.pstate.el = .el1 <;> simp [he]

/-- Everything a trapped MSR write can do (R70). -/
theorem trappedMsr_next {f : TrapField} {t : RegNum} {s s' : State} (h : trappedMsr f t s = .next s') :
    writeTrapCheck f s = .trap
      ∧ s' = raiseSystemAccessTrap .el2 0x18#6 1#1 (sysRegIss (targetTuple f s) t false) s := by
  unfold trappedMsr at h
  split at h
  · next hc => cases h; exact ⟨hc, rfl⟩
  · cases h
  · cases h

/-- Everything the trapped MSRR write can do (R70). -/
theorem trappedMsrr_next {f : TrapField} {s s' : State} (h : trappedMsrr f s = .next s') :
    writeTrapCheck f s = .trap ∧ s' = raiseSystemAccessTrapFreeIss .el2 0x14#6 s := by
  unfold trappedMsrr at h
  split at h
  · next hc => cases h; exact ⟨hc, rfl⟩
  · cases h
  · cases h

/-- The meaning of a write that a field traps: the MSR of the field's target register, or the MSRR (R88). -/
theorem exec_of_trapField {i : Instr} {f : TrapField} (s : State) (h : i.trapField = some f) :
    ((∀ t, i ≠ .msrrRCWSMASK t) ∧ exec i s = trappedMsr f i.rt s)
      ∨ ((∃ t, i = .msrrRCWSMASK t) ∧ f = .nRCWSMASK ∧ exec i s = trappedMsrr f s) := by
  cases i <;> simp only [Instr.trapField, Option.some.injEq, reduceCtorEq] at h <;> subst h <;>
    first
    | exact .inl ⟨nofun, rfl⟩
    | exact .inr ⟨⟨_, rfl⟩, rfl, rfl⟩

/-! ## The two accesses -/

/-- Everything MRS can do where it answers a next state (R61). -/
theorem execMrsHFGWTR2_next {t : RegNum} {s s' : State} (h : execMrsHFGWTR2 t s = .next s') :
    (accessPath s = .undefined ∧ s' = raiseUndefined s)
      ∨ (accessPath s = .trapEL2 ∧ s' = accessTrap .el2 t true s)
      ∨ (accessPath s = .trapEL3 ∧ s' = accessTrap .el3 t true s)
      ∨ (accessPath s = .nvMem ∧ ∃ v, nvMemRead s = .next v ∧ s' = (s.setX t v).advancePc)
      ∨ (accessPath s = .direct ∧ s' = (s.setX t (res0Read s.cfg s.hfgwtr2)).advancePc) := by
  unfold execMrsHFGWTR2 at h
  split at h
  · next ha => cases h; exact .inl ⟨ha, rfl⟩
  · next ha => cases h; exact .inr (.inl ⟨ha, rfl⟩)
  · next ha => cases h; exact .inr (.inr (.inl ⟨ha, rfl⟩))
  · next ha =>
    split at h
    · next v hv => cases h; exact .inr (.inr (.inr (.inl ⟨ha, v, hv, rfl⟩)))
    · cases h
    · cases h
  · next ha => cases h; exact .inr (.inr (.inr (.inr ⟨ha, rfl⟩)))

/-- Everything MSR can do where it answers a next state (R62). -/
theorem execMsrHFGWTR2_next {t : RegNum} {s s' : State} (h : execMsrHFGWTR2 t s = .next s') :
    (accessPath s = .undefined ∧ s' = raiseUndefined s)
      ∨ (accessPath s = .trapEL2 ∧ s' = accessTrap .el2 t false s)
      ∨ (accessPath s = .trapEL3 ∧ s' = accessTrap .el3 t false s)
      ∨ (accessPath s = .nvMem ∧ ∃ u, nvMemWrite (s.x t) s = .next u ∧ s' = u.advancePc)
      ∨ (accessPath s = .direct ∧ ∃ u, writeHfgwtr2 (s.x t) s = .next u ∧ s' = u.advancePc) := by
  unfold execMsrHFGWTR2 at h
  split at h
  · next ha => cases h; exact .inl ⟨ha, rfl⟩
  · next ha => cases h; exact .inr (.inl ⟨ha, rfl⟩)
  · next ha => cases h; exact .inr (.inr (.inl ⟨ha, rfl⟩))
  · next ha =>
    split at h
    · next u hu => cases h; exact .inr (.inr (.inr (.inl ⟨ha, u, hu, rfl⟩)))
    · cases h
    · cases h
  · next ha =>
    split at h
    · next u hu => cases h; exact .inr (.inr (.inr (.inr ⟨ha, u, hu, rfl⟩)))
    · cases h
    · cases h

/-! ## The environment and the step -/

/-- Everything a move of the environment can do where it answers a next state. -/
theorem applyMove_next {m : EnvMove} {s s' : State} (h : applyMove m s = .next s') :
    (∃ i, m = .setInputs i ∧ s' = { s with inp := i }) ∨ (∃ p, m = .setPState p ∧ s' = { s with pstate := p })
      ∨ (∃ t v, m = .setX t v ∧ s' = s.setX t v) ∨ (∃ a, m = .setPc a ∧ s' = { s with pc := a })
      ∨ (∃ b1 b2 b3, m = .setBanks b1 b2 b3 ∧ s' = { s with exc1 := b1, exc2 := b2, exc3 := b3 })
      ∨ (∃ v, m = .writeNvMem v ∧ nvMemStore v s = .next s') ∨ (m = .contextSync ∧ s' = { s with unsynced := false })
      ∨ (m = .exceptionReturn ∧ exceptionReturn s = .next s')
      ∨ (∃ b, (m = .warmReset b ∨ m = .coldReset b) ∧ s' = bootState s.cfg b s.text s.env s.free) := by
  cases m <;> simp only [applyMove, Host.Outcome.next.injEq] at h <;> simp_all [warmReset, coldReset]

/-- Everything an instruction step can do where it answers a next state: fetch, decode, `exec`. -/
theorem runInstr_next {s s' : State} (h : runInstr s = .next s') :
    s.pstate.aarch64 = true
      ∧ ∃ bs i rest, fetch s = .next bs ∧ decode s.cfg bs = .ok (i, rest) ∧ exec i s = .next s' := by
  unfold runInstr at h
  split at h
  · next ha =>
    split at h
    · next bs hf =>
      split at h
      · next i rest hd => exact ⟨ha, bs, i, rest, hf, hd, h⟩
      · cases h
    · cases h
    · cases h
  · cases h

@[simp] theorem step_of_end {s : State} (h : s.env = []) : step s = runInstr s := by unfold step; rw [h]

@[simp] theorem step_of_instr {s : State} {es : List EnvEvent} (h : s.env = .instr :: es) :
    step s = runInstr { s with env := es } := by unfold step; rw [h]

@[simp] theorem step_of_move {s : State} {m : EnvMove} {es : List EnvEvent} (h : s.env = .move m :: es) :
    step s = applyMove m { s with env := es } := by unfold step; rw [h]

/-- Everything a step can do: the schedule's move, or the instruction step of the schedule or after its end. -/
theorem step_cases (s : State) :
    (∃ m es, s.env = .move m :: es ∧ step s = applyMove m { s with env := es })
      ∨ ((s.env = [] ∨ ∃ es, s.env = .instr :: es) ∧ step s = runInstr { s with env := s.env.tail }) := by
  match he : s.env with
  | [] => exact .inr ⟨.inl rfl, by rw [step_of_end he, List.tail_nil, ← he]⟩
  | .instr :: es => exact .inr ⟨.inr ⟨es, rfl⟩, step_of_instr he⟩
  | .move m :: es => exact .inl ⟨m, es, rfl, step_of_move he⟩

/-- Everything a step can do where it answers a next state: the environment's move, or the instruction fetched. -/
theorem step_next {s s' : State} (h : step s = .next s') :
    (∃ m es, s.env = .move m :: es ∧ applyMove m { s with env := es } = .next s')
      ∨ ((s.env = [] ∨ ∃ es, s.env = .instr :: es) ∧ s.pstate.aarch64 = true
        ∧ ∃ bs i rest, fetch s = .next bs ∧ decode s.cfg bs = .ok (i, rest)
          ∧ exec i { s with env := s.env.tail } = .next s') := by
  rcases step_cases s with ⟨m, es, he, hs⟩ | ⟨he, hs⟩
  · exact .inl ⟨m, es, he, hs ▸ h⟩
  · obtain ⟨ha, bs, i, rest, hf, hd, hx⟩ := runInstr_next (hs ▸ h)
    exact .inr ⟨he, ha, bs, i, rest, hf, hd, hx⟩

end Sys2Proof.Machine
end

