-- ==== Sys2Proof/Laws/PerInstr.lean ====
section
/-! SUPPORT. Laws/PerInstr.lean: statements about every instruction, one lemma per constructor. -/

namespace Sys2Proof.Laws

/-- The word of an instruction carries its operand: every encoding the instruction has, whose pattern is in order, reads
its register number back from `Rt` (R51, R52). -/
def EncodedWord.Statement (i : Instr) : Prop :=
  ∀ (c : Config) (p : Pattern), pattern c i = some p → p.wf = true → p.rtOf (p.wordOf i.rt) = i.rt

/-- Bit `j` of the mask of a word with `Rt` at bit `k`. -/
theorem getLsbD_rtMask (k j : Nat) (hj : j < 32) : (rtMask k).getLsbD j = !decide (k ≤ j ∧ j < k + 5) := by
  simp only [rtMask, BitVec.getLsbD_not, hj, decide_true, Bool.true_and, BitVec.getLsbD_shiftLeft]
  congr 1
  by_cases h1 : j < k
  · simp [h1]
  · simp only [h1, decide_false, Bool.not_false, Bool.true_and]
    have h0 : ∀ n, n < 32 → (0x1F#32).getLsbD n = decide (n < 5) := by decide
    rw [h0 (j - k) (by omega)]
    apply decide_eq_decide.mpr
    omega

/-- The fixed bits of a pattern in order are zero where `Rt` stands. -/
theorem getLsbD_fixed_rt {p : Pattern} (h : p.wf = true) (j : Nat) (h1 : p.rtLsb ≤ j) (h2 : j < p.rtLsb + 5) :
    p.fixed.getLsbD j = false := by
  simp only [Pattern.wf, Bool.and_eq_true, decide_eq_true_eq, beq_iff_eq] at h
  obtain ⟨⟨hk, hm⟩, hf⟩ := h
  rw [← hf, BitVec.getLsbD_and, hm, getLsbD_rtMask _ _ (by omega)]
  simp [h1, h2]

/-- The operand number of a word of a pattern in order is the one it was made with. -/
theorem rtOf_wordOf (p : Pattern) (t : RegNum) (h : p.wf = true) : p.rtOf (p.wordOf t) = t := by
  apply BitVec.eq_of_getLsbD_eq
  intro i hi
  have hk : p.rtLsb ≤ 27 := by
    simp only [Pattern.wf, Bool.and_eq_true, decide_eq_true_eq] at h
    exact h.1.1
  simp only [Pattern.rtOf, Pattern.wordOf, BitVec.getLsbD_setWidth, BitVec.getLsbD_ushiftRight, BitVec.getLsbD_or,
    BitVec.getLsbD_shiftLeft]
  rw [getLsbD_fixed_rt h _ (by omega) (by omega)]
  simp only [hi, decide_true, Bool.true_and, Bool.false_or]
  rw [show p.rtLsb + i - p.rtLsb = i by omega]
  simp [show p.rtLsb + i < 32 by omega, show i < 32 by omega]

theorem EncodedWord.mrsHFGWTR2 (t : RegNum) : EncodedWord.Statement (.mrsHFGWTR2 t) := fun _ p _ h => rtOf_wordOf p t h

theorem EncodedWord.msrHFGWTR2 (t : RegNum) : EncodedWord.Statement (.msrHFGWTR2 t) := fun _ p _ h => rtOf_wordOf p t h

theorem EncodedWord.msrACTLRALIAS (t : RegNum) : EncodedWord.Statement (.msrACTLRALIAS t) := fun _ p _ h => rtOf_wordOf p t h

theorem EncodedWord.msrACTLRMASK (t : RegNum) : EncodedWord.Statement (.msrACTLRMASK t) := fun _ p _ h => rtOf_wordOf p t h

theorem EncodedWord.msrTCR2ALIAS (t : RegNum) : EncodedWord.Statement (.msrTCR2ALIAS t) := fun _ p _ h => rtOf_wordOf p t h

theorem EncodedWord.msrTCRALIAS (t : RegNum) : EncodedWord.Statement (.msrTCRALIAS t) := fun _ p _ h => rtOf_wordOf p t h

theorem EncodedWord.msrSCTLR2ALIAS (t : RegNum) : EncodedWord.Statement (.msrSCTLR2ALIAS t) := fun _ p _ h => rtOf_wordOf p t h

theorem EncodedWord.msrSCTLRALIAS (t : RegNum) : EncodedWord.Statement (.msrSCTLRALIAS t) := fun _ p _ h => rtOf_wordOf p t h

theorem EncodedWord.msrCPACRALIAS (t : RegNum) : EncodedWord.Statement (.msrCPACRALIAS t) := fun _ p _ h => rtOf_wordOf p t h

theorem EncodedWord.msrTCR2MASK (t : RegNum) : EncodedWord.Statement (.msrTCR2MASK t) := fun _ p _ h => rtOf_wordOf p t h

theorem EncodedWord.msrTCRMASK (t : RegNum) : EncodedWord.Statement (.msrTCRMASK t) := fun _ p _ h => rtOf_wordOf p t h

theorem EncodedWord.msrSCTLR2MASK (t : RegNum) : EncodedWord.Statement (.msrSCTLR2MASK t) := fun _ p _ h => rtOf_wordOf p t h

theorem EncodedWord.msrSCTLRMASK (t : RegNum) : EncodedWord.Statement (.msrSCTLRMASK t) := fun _ p _ h => rtOf_wordOf p t h

theorem EncodedWord.msrCPACRMASK (t : RegNum) : EncodedWord.Statement (.msrCPACRMASK t) := fun _ p _ h => rtOf_wordOf p t h

theorem EncodedWord.msrRCWSMASK (t : RegNum) : EncodedWord.Statement (.msrRCWSMASK t) := fun _ p _ h => rtOf_wordOf p t h

theorem EncodedWord.msrrRCWSMASK (t : RegNum) : EncodedWord.Statement (.msrrRCWSMASK t) := fun _ p _ h => rtOf_wordOf p t h

theorem EncodedWord.msrPFAR (t : RegNum) : EncodedWord.Statement (.msrPFAR t) := fun _ p _ h => rtOf_wordOf p t h

end Sys2Proof.Laws
end

