-- ==== Sys2Proof/Tests/Slice0.lean ====
section
/-! SUPPORT. Slice0.lean: decoding of words written out from the encoding rules, ill-formed terms that the checks refuse,
one-step tests against the rows of 95_test_vectors.md, and for each obligation with hypotheses a witness that meets
them. -/

namespace Sys2Proof.Tests

open Sys2Proof Sys2Proof.Machine

/-! ## Helpers -/

/-- A tuple of the register-move format for tests: (3, 0, 14, `crm`, 0). It is no register of the spec: every `enc(T)`
is OPEN (R57). -/
def testEnc (crm : BitVec 4) : SysRegEnc := ⟨0b11#2, 0b000#3, 0b1110#4, crm, 0b000#3⟩

/-- A configuration that supplies a tuple for every target register and a layout for the MSRR: bit 22 of the word set,
the tuple and `Rt` where the MSR has them. -/
def testConfig : Config :=
  { Config.default with
    enc := [(.nACTLRALIAS, testEnc 0), (.nACTLRMASK, testEnc 1), (.nTCR2ALIAS, testEnc 2), (.nTCRALIAS, testEnc 3),
      (.nSCTLR2ALIAS, testEnc 4), (.nSCTLRALIAS, testEnc 5), (.nCPACRALIAS, testEnc 6), (.nTCR2MASK, testEnc 7),
      (.nTCRMASK, testEnc 8), (.nSCTLR2MASK, testEnc 9), (.nSCTLRMASK, testEnc 10), (.nCPACRMASK, testEnc 11),
      (.nRCWSMASK, testEnc 12), (.nPFAR, testEnc 13)]
    msrr := some ⟨0xD5400000#32, 5, 0⟩ }

/-- A state at an Exception level, with `nvx` and a value of the register. -/
def at_ (el : EL) (nvx : BitVec 3) (reg : Word) : State :=
  { State.reset with pstate := ⟨el, true, false⟩, inp := { Inputs.reset with nvx := nvx }, hfgwtr2 := reg }

/-- The same with EL3 implemented and a value of `SCR_EL3.FGTEn2`. -/
def at3 (el : EL) (fgtEn2 : BitVec 1) (reg : Word) : State :=
  { at_ el 0#3 reg with
    cfg := { Config.default with haveEL3 := true }
    inp := { Inputs.reset with fgtEn2 := fgtEn2 } }

/-- The same with a policy for RES0 bits and the features of bits 14 to 3 and of bits 2 and 0. -/
def withPolicy (pol : Res0Policy) (sr rest : Bool) (s : State) : State :=
  { s with cfg := { s.cfg with res0Policy := pol, featSRMASK := sr, featTHE := rest, featPFAR := rest } }

/-- The same with a value in a general register. -/
def withX (t : RegNum) (v : Word) (s : State) : State := s.setX t v

/-- The same with the `NVMem` of the guest at byte address `0x1000`. -/
def mapped (big : Bool) (s : State) : State := { s with cfg := { s.cfg with nvMap := some ⟨0x1000#64, big⟩ } }

/-- Bytes 1 to 8 at the addresses of the image of the register, `0x12C8` to `0x12CF`. -/
def eightBytes : Memory :=
  [(0x12C8, 1#8), (0x12C9, 2#8), (0x12CA, 3#8), (0x12CB, 4#8), (0x12CC, 5#8), (0x12CD, 6#8), (0x12CE, 7#8),
   (0x12CF, 8#8)]

/-- The answer is a next state with a property. -/
def nextWith (o : Answer State) (f : State → Bool) : Bool :=
  match o with
  | .next s => f s
  | _ => false

/-- The answer is a trap to EL2 with a class. -/
def trapsEL2 (ec : BitVec 6) (o : Answer State) : Bool :=
  nextWith o (fun s => s.pstate.el == .el2 && s.exc2.esr.ec == ec)

/-- What a reset leaves, for a draw and an Exception level. -/
def boot (u : Word) (el : EL) : Boot :=
  ⟨u, Vector.replicate 31 0#64, ⟨el, true, true⟩, Inputs.reset, ExcBank.reset, ExcBank.reset, ExcBank.reset⟩

/-! ## Decoding: words written out from R50 and R51, and 95_test_vectors.md section 2 -/

/-- `1101010100 1 11 100 0011 0001 011 00111`, an MRS with t = 7. -/
theorem test_decode_mrsHFGWTR2 :
    decodeWord Config.default 0b11010101001111000011000101100111#32 = .ok (.mrsHFGWTR2 7#5) := by rfl

/-- `1101010100 0 11 100 0011 0001 011 11111`, an MSR with t = 31. -/
theorem test_decode_msrHFGWTR2 :
    decodeWord Config.default 0b11010101000111000011000101111111#32 = .ok (.msrHFGWTR2 31#5) := by rfl

/-- The bytes of `MRS X15, HFGWTR2_EL2` as section 2 lists them, lowest address first. -/
theorem test_decode_bytes :
    decode Config.default [0x6f#8, 0x31#8, 0x3c#8, 0xd5#8] = .ok (.mrsHFGWTR2 15#5, []) := by rfl

/-- Three bytes are no instruction. -/
theorem test_decode_truncated : decode Config.default [0x6f#8, 0x31#8, 0x3c#8] = .error .truncated := by rfl

/-- Without a supplied tuple the word of a trapped write is not decoded (R57). -/
theorem test_decode_open : decodeWord Config.default 0xD518ED02#32 = .error .notDecoded := by rfl

/-- The words `1101010100 0 11 000 1110 <crm> 000 <t>` of the MSR writes under the test tuples. -/
theorem test_decode_msrACTLRALIAS :
    decodeWord testConfig 0b11010101000110001110000000000001#32 = .ok (.msrACTLRALIAS 1#5) := by rfl

/-- CRm = 1, t = 3. -/
theorem test_decode_msrACTLRMASK :
    decodeWord testConfig 0b11010101000110001110000100000011#32 = .ok (.msrACTLRMASK 3#5) := by rfl

/-- CRm = 2, t = 5. -/
theorem test_decode_msrTCR2ALIAS :
    decodeWord testConfig 0b11010101000110001110001000000101#32 = .ok (.msrTCR2ALIAS 5#5) := by rfl

/-- CRm = 3, t = 7. -/
theorem test_decode_msrTCRALIAS :
    decodeWord testConfig 0b11010101000110001110001100000111#32 = .ok (.msrTCRALIAS 7#5) := by rfl

/-- CRm = 4, t = 9. -/
theorem test_decode_msrSCTLR2ALIAS :
    decodeWord testConfig 0b11010101000110001110010000001001#32 = .ok (.msrSCTLR2ALIAS 9#5) := by rfl

/-- CRm = 5, t = 11. -/
theorem test_decode_msrSCTLRALIAS :
    decodeWord testConfig 0b11010101000110001110010100001011#32 = .ok (.msrSCTLRALIAS 11#5) := by rfl

/-- CRm = 6, t = 13. -/
theorem test_decode_msrCPACRALIAS :
    decodeWord testConfig 0b11010101000110001110011000001101#32 = .ok (.msrCPACRALIAS 13#5) := by rfl

/-- CRm = 7, t = 15. -/
theorem test_decode_msrTCR2MASK :
    decodeWord testConfig 0b11010101000110001110011100001111#32 = .ok (.msrTCR2MASK 15#5) := by rfl

/-- CRm = 8, t = 17. -/
theorem test_decode_msrTCRMASK :
    decodeWord testConfig 0b11010101000110001110100000010001#32 = .ok (.msrTCRMASK 17#5) := by rfl

/-- CRm = 9, t = 19. -/
theorem test_decode_msrSCTLR2MASK :
    decodeWord testConfig 0b11010101000110001110100100010011#32 = .ok (.msrSCTLR2MASK 19#5) := by rfl

/-- CRm = 10, t = 21. -/
theorem test_decode_msrSCTLRMASK :
    decodeWord testConfig 0b11010101000110001110101000010101#32 = .ok (.msrSCTLRMASK 21#5) := by rfl

/-- CRm = 11, t = 23. -/
theorem test_decode_msrCPACRMASK :
    decodeWord testConfig 0b11010101000110001110101100010111#32 = .ok (.msrCPACRMASK 23#5) := by rfl

/-- CRm = 12, t = 25. -/
theorem test_decode_msrRCWSMASK :
    decodeWord testConfig 0b11010101000110001110110000011001#32 = .ok (.msrRCWSMASK 25#5) := by rfl

/-- CRm = 13, t = 27. -/
theorem test_decode_msrPFAR :
    decodeWord testConfig 0b11010101000110001110110100011011#32 = .ok (.msrPFAR 27#5) := by rfl

/-- The MSRR under the test layout: bit 22 set, CRm = 12, t = 6. -/
theorem test_decode_msrrRCWSMASK :
    decodeWord testConfig 0b11010101010110001110110000000110#32 = .ok (.msrrRCWSMASK 6#5) := by rfl

/-- The MSRR with an odd register is refused by name (R56). -/
theorem test_decode_odd_pair : decodeWord testConfig 0xD558EC07#32 = .error .oddRegisterPair := by rfl

/-- The encoder gives the bytes section 2 lists for `MSR HFGWTR2_EL2, X30`. -/
theorem test_encode : encode Config.default (.msrHFGWTR2 30#5) = some [0x7e#8, 0x31#8, 0x1c#8, 0xd5#8] := by decide

/-! ## Ill-formed terms are refused -/

/-- `Instr.wf` refuses an MSRR of an odd register. -/
theorem test_wf_instr : (Instr.msrrRCWSMASK 5#5).wf = false ∧ (Instr.msrrRCWSMASK 4#5).wf = true := by decide

/-- `SysRegEnc.wf` refuses op0 = 0b01. -/
theorem test_wf_enc : (SysRegEnc.mk 0b01#2 0#3 0#4 0#4 0#3).wf = false ∧ hfgwtr2Enc.wf = true := by decide

/-- `NvMap.wf` refuses an `NVBase` that is no multiple of 8 (R43). -/
theorem test_wf_nvmap : (NvMap.mk 0x1004#64 false).wf = false ∧ (NvMap.mk 0x1008#64 false).wf = true := by decide

/-- `Config.wf` refuses a bad tuple, a bad `NVBase` and a misaligned reset address. -/
theorem test_wf_config :
    ({ Config.default with enc := [(.nPFAR, ⟨0b01#2, 0#3, 0#4, 0#4, 0#3⟩)] } : Config).wf = false
      ∧ ({ Config.default with nvMap := some ⟨4#64, true⟩ } : Config).wf = false
      ∧ ({ Config.default with resetAddr := 2#64 } : Config).wf = false ∧ Config.default.wf = true := by decide

/-- `Config.matchWordsCarryTuple` refuses a match word with op2 = 0b010 (R51). -/
theorem test_wf_match_words :
    ({ Config.default with matchMRS := 0xD53C3140#32 } : Config).matchWordsCarryTuple = false := by decide

/-- `Pattern.wf` refuses a fixed bit where the operand stands, and an operand that leaves the word. -/
theorem test_wf_pattern :
    (Pattern.mk 0xD51C3161#32 (rtMask 0) 0).wf = false ∧ (Pattern.mk 0#32 (rtMask 28) 28).wf = false := by decide

/-- `Pattern.disjoint` refuses a pattern beside itself. -/
theorem test_wf_disjoint : (msrPattern hfgwtr2Enc).disjoint (msrPattern hfgwtr2Enc) = false := by decide

/-- `Config.unambiguous` and `Config.encodingsOk` refuse two target registers with one tuple, and accept the test
configuration. -/
theorem test_wf_unambiguous :
    ({ Config.default with enc := [(.nPFAR, testEnc 0), (.nTCRMASK, testEnc 0)] } : Config).unambiguous = false
      ∧ ({ Config.default with enc := [(.nPFAR, hfgwtr2Enc)] } : Config).encodingsOk = false
      ∧ testConfig.encodingsOk = true := by decide

/-- `Memory.wf` refuses falling and repeated addresses. -/
theorem test_wf_memory :
    Memory.wf [(2, 0#8), (1, 0#8)] = false ∧ Memory.wf [(1, 0#8), (1, 1#8)] = false
      ∧ Memory.wf eightBytes = true := by decide

/-! ## One step: the rows of 95_test_vectors.md -/

/-- Program P1 step 1, through fetch and decode: `0x40` is stored and the program counter moves past the word. -/
theorem test_p1_msr :
    nextWith (step ((withX 0#5 0x40#64 State.reset).withFetchWord 32 0xD51C3160))
      (fun s => s.hfgwtr2 == 0x40#64 && s.pc == 4#64 && s.unsynced) = true := by decide

/-- Program P1 step 2: the value is read back into X1. -/
theorem test_p1_mrs :
    nextWith (step ((at_ .el2 0#3 0x40#64).withFetchWord 32 0xD53C3161))
      (fun s => s.x 1#5 == 0x40#64 && s.pc == 4#64) = true := by decide

/-- Rows V4 and V10: a 1 in a RES0 bit is refused under `refuse`. -/
theorem test_msr_refuse :
    exec (.msrHFGWTR2 0#5) (withX 0#5 2#64 (at_ .el2 0#3 0#64)) = .refused .writeOneToRes0
      ∧ exec (.msrHFGWTR2 0#5) (withX 0#5 0xFFFFFFFFFFFFFFFF#64 (at_ .el2 0#3 0x7FFD#64))
        = .refused .writeOneToRes0 := by
  constructor <;> rfl

/-- Rows V11, V14 and V12: what `raz_wi` and `stored` store. -/
theorem test_msr_policies :
    nextWith (exec (.msrHFGWTR2 0#5)
          (withPolicy .razWi true true (withX 0#5 0xFFFFFFFFFFFFFFFF#64 (at_ .el2 0#3 0#64))))
        (fun s => s.hfgwtr2 == 0x7FFD#64) = true
      ∧ nextWith (exec (.msrHFGWTR2 0#5) (withPolicy .razWi false true (withX 0#5 0x7FFD#64 (at_ .el2 0#3 0#64))))
        (fun s => s.hfgwtr2 == 5#64) = true
      ∧ nextWith (exec (.msrHFGWTR2 0#5)
          (withPolicy .stored true true (withX 0#5 0xFFFFFFFFFFFFFFFF#64 (at_ .el2 0#3 0#64))))
        (fun s => s.hfgwtr2 == 0xFFFFFFFFFFFFFFFF#64) = true := by decide

/-- Rows M1 and M3: the NVMem path moves all 64 bits, whatever the policy. -/
theorem test_nvmem_cell :
    nextWith (exec (.msrHFGWTR2 0#5) (withX 0#5 0xFFFFFFFFFFFFFFFF#64 (at_ .el1 7#3 0x7FFD#64)))
        (fun s => s.nvCell == some 0xFFFFFFFFFFFFFFFF#64 && s.hfgwtr2 == 0x7FFD#64) = true
      ∧ nextWith (exec (.mrsHFGWTR2 1#5) { at_ .el1 5#3 0#64 with nvCell := some 0x8002#64 })
        (fun s => s.x 1#5 == 0x8002#64) = true := by decide

/-- R42: the two byte orders of the mapped NVMem. -/
theorem test_nvmem_bytes :
    nextWith (exec (.mrsHFGWTR2 1#5) { mapped false (at_ .el1 7#3 0#64) with mem := eightBytes })
        (fun s => s.x 1#5 == 0x0807060504030201#64) = true
      ∧ nextWith (exec (.mrsHFGWTR2 1#5) { mapped true (at_ .el1 7#3 0#64) with mem := eightBytes })
        (fun s => s.x 1#5 == 0x0102030405060708#64) = true := by decide

/-- Program P2 step 4: at EL1 with `nvx` = 001, `MRS X2` traps to EL2 with class `0x18` and ISS `0x370C43`. -/
theorem test_trap_iss :
    nextWith (exec (.mrsHFGWTR2 2#5) (at_ .el1 1#3 0#64))
      (fun s => s.exc2.esr.ec == 0x18#6 && s.exc2.esr.iss == 0x370C43#25 && s.pstate.el == .el2) = true := by decide

/-- Rows A13 and A17: without FGTEn2 an access at EL2 traps to EL3, and at EL3 it is direct. -/
theorem test_el3 :
    nextWith (exec (.mrsHFGWTR2 5#5) (at3 .el2 0#1 0x7FFD#64))
        (fun s => s.pstate.el == .el3 && s.exc3.esr.ec == 0x18#6 && s.x 5#5 == 0#64) = true
      ∧ nextWith (exec (.mrsHFGWTR2 1#5) (at3 .el3 0#1 0x7FFD#64)) (fun s => s.x 1#5 == 0x7FFD#64) = true := by decide

/-- Rows K10 and K12: the two meanings of `SCR_EL3.FGTEn2 == 0`. -/
theorem test_fgten2_zero :
    trapsEL2 0x18#6 (exec (.msrPFAR 2#5) (at3 .el1 0#1 0x7FFD#64)) = true
      ∧ exec (.msrPFAR 2#5)
          { at3 .el1 0#1 0x7FFC#64 with cfg := { Config.default with haveEL3 := true, fgtEn2ZeroMeans := .noTrap } }
        = .refused .untrappedWriteOutsideSpec := ⟨by decide, rfl⟩

/-- Row Z3: a reset with EL3 leaves the draw in the implemented fields. -/
theorem test_reset_draw :
    nextWith (step { at3 .el2 0#1 0#64 with env := [.move (.warmReset (boot 0xFFFFFFFFFFFFFFFF#64 .el3))] })
      (fun s => s.hfgwtr2 == 0x7FFD#64 && s.pstate.el == .el3) = true := by decide

/-- 95_test_vectors.md section 7, rows T1 to T15: with only its own bit 0 each write traps with its class, and with only
its own bit 1 it does not. -/
theorem test_trap_msrACTLRALIAS :
    trapsEL2 0x18#6 (exec (.msrACTLRALIAS 2#5) (at_ .el1 0#3 0x3FFD#64)) = true
      ∧ exec (.msrACTLRALIAS 2#5) (at_ .el1 0#3 0x4000#64) = .refused .untrappedWriteOutsideSpec :=
  ⟨by decide, rfl⟩

/-- Bit 13. -/
theorem test_trap_msrACTLRMASK :
    trapsEL2 0x18#6 (exec (.msrACTLRMASK 2#5) (at_ .el1 0#3 0x5FFD#64)) = true
      ∧ exec (.msrACTLRMASK 2#5) (at_ .el1 0#3 0x2000#64) = .refused .untrappedWriteOutsideSpec :=
  ⟨by decide, rfl⟩

/-- Bit 12. -/
theorem test_trap_msrTCR2ALIAS :
    trapsEL2 0x18#6 (exec (.msrTCR2ALIAS 2#5) (at_ .el1 0#3 0x6FFD#64)) = true
      ∧ exec (.msrTCR2ALIAS 2#5) (at_ .el1 0#3 0x1000#64) = .refused .untrappedWriteOutsideSpec :=
  ⟨by decide, rfl⟩

/-- Bit 11. -/
theorem test_trap_msrTCRALIAS :
    trapsEL2 0x18#6 (exec (.msrTCRALIAS 2#5) (at_ .el1 0#3 0x77FD#64)) = true
      ∧ exec (.msrTCRALIAS 2#5) (at_ .el1 0#3 0x0800#64) = .refused .untrappedWriteOutsideSpec :=
  ⟨by decide, rfl⟩

/-- Bit 10. -/
theorem test_trap_msrSCTLR2ALIAS :
    trapsEL2 0x18#6 (exec (.msrSCTLR2ALIAS 2#5) (at_ .el1 0#3 0x7BFD#64)) = true
      ∧ exec (.msrSCTLR2ALIAS 2#5) (at_ .el1 0#3 0x0400#64) = .refused .untrappedWriteOutsideSpec :=
  ⟨by decide, rfl⟩

/-- Bit 9. -/
theorem test_trap_msrSCTLRALIAS :
    trapsEL2 0x18#6 (exec (.msrSCTLRALIAS 2#5) (at_ .el1 0#3 0x7DFD#64)) = true
      ∧ exec (.msrSCTLRALIAS 2#5) (at_ .el1 0#3 0x0200#64) = .refused .untrappedWriteOutsideSpec :=
  ⟨by decide, rfl⟩

/-- Bit 8. -/
theorem test_trap_msrCPACRALIAS :
    trapsEL2 0x18#6 (exec (.msrCPACRALIAS 2#5) (at_ .el1 0#3 0x7EFD#64)) = true
      ∧ exec (.msrCPACRALIAS 2#5) (at_ .el1 0#3 0x0100#64) = .refused .untrappedWriteOutsideSpec :=
  ⟨by decide, rfl⟩

/-- Bit 7. -/
theorem test_trap_msrTCR2MASK :
    trapsEL2 0x18#6 (exec (.msrTCR2MASK 2#5) (at_ .el1 0#3 0x7F7D#64)) = true
      ∧ exec (.msrTCR2MASK 2#5) (at_ .el1 0#3 0x0080#64) = .refused .untrappedWriteOutsideSpec :=
  ⟨by decide, rfl⟩

/-- Bit 6. -/
theorem test_trap_msrTCRMASK :
    trapsEL2 0x18#6 (exec (.msrTCRMASK 2#5) (at_ .el1 0#3 0x7FBD#64)) = true
      ∧ exec (.msrTCRMASK 2#5) (at_ .el1 0#3 0x0040#64) = .refused .untrappedWriteOutsideSpec :=
  ⟨by decide, rfl⟩

/-- Bit 5. -/
theorem test_trap_msrSCTLR2MASK :
    trapsEL2 0x18#6 (exec (.msrSCTLR2MASK 2#5) (at_ .el1 0#3 0x7FDD#64)) = true
      ∧ exec (.msrSCTLR2MASK 2#5) (at_ .el1 0#3 0x0020#64) = .refused .untrappedWriteOutsideSpec :=
  ⟨by decide, rfl⟩

/-- Bit 4. -/
theorem test_trap_msrSCTLRMASK :
    trapsEL2 0x18#6 (exec (.msrSCTLRMASK 2#5) (at_ .el1 0#3 0x7FED#64)) = true
      ∧ exec (.msrSCTLRMASK 2#5) (at_ .el1 0#3 0x0010#64) = .refused .untrappedWriteOutsideSpec :=
  ⟨by decide, rfl⟩

/-- Bit 3. -/
theorem test_trap_msrCPACRMASK :
    trapsEL2 0x18#6 (exec (.msrCPACRMASK 2#5) (at_ .el1 0#3 0x7FF5#64)) = true
      ∧ exec (.msrCPACRMASK 2#5) (at_ .el1 0#3 0x0008#64) = .refused .untrappedWriteOutsideSpec :=
  ⟨by decide, rfl⟩

/-- Bit 2. -/
theorem test_trap_msrRCWSMASK :
    trapsEL2 0x18#6 (exec (.msrRCWSMASK 2#5) (at_ .el1 0#3 0x7FF9#64)) = true
      ∧ exec (.msrRCWSMASK 2#5) (at_ .el1 0#3 0x0004#64) = .refused .untrappedWriteOutsideSpec :=
  ⟨by decide, rfl⟩

/-- Bit 2. -/
theorem test_trap_msrrRCWSMASK :
    trapsEL2 0x14#6 (exec (.msrrRCWSMASK 2#5) (at_ .el1 0#3 0x7FF9#64)) = true
      ∧ exec (.msrrRCWSMASK 2#5) (at_ .el1 0#3 0x0004#64) = .refused .untrappedWriteOutsideSpec :=
  ⟨by decide, rfl⟩

/-- Bit 0. -/
theorem test_trap_msrPFAR :
    trapsEL2 0x18#6 (exec (.msrPFAR 2#5) (at_ .el1 0#3 0x7FFC#64)) = true
      ∧ exec (.msrPFAR 2#5) (at_ .el1 0#3 0x0001#64) = .refused .untrappedWriteOutsideSpec :=
  ⟨by decide, rfl⟩

/-! ## Witnesses: for each obligation with hypotheses, states and operands that meet them -/

/-- A decided fact about a state: the conditions of R60 at one state. -/
theorem direct_el2 : DirectCondition (at_ .el2 0#3 0x7FFD#64) := by
  simp only [DirectCondition, Present, LockedByEL3]; decide

theorem direct_el3 : DirectCondition (at3 .el3 0#1 0x7FFD#64) := by
  simp only [DirectCondition, Present, LockedByEL3]; decide

theorem nvMem_101 : NvMemCondition (at_ .el1 5#3 0#64) := by simp only [NvMemCondition, Present]; decide

theorem nvMem_111 : NvMemCondition (at_ .el1 7#3 0#64) := by simp only [NvMemCondition, Present]; decide

theorem witness_EncodeThenDecode :
    testConfig.encodingsOk = true ∧ (Instr.msrrRCWSMASK 30#5).wf = true
      ∧ encode testConfig (.msrrRCWSMASK 30#5) = some [0x1E#8, 0xEC#8, 0x58#8, 0xD5#8] := by decide

theorem witness_DecodeThenEncode :
    testConfig.encodingsOk = true
      ∧ decode testConfig [0x1E#8, 0xEC#8, 0x58#8, 0xD5#8, 7#8] = .ok (.msrrRCWSMASK 30#5, [7#8]) :=
  ⟨by decide, rfl⟩

/-- An MSR and the MSRR. -/
theorem witness_OpenEncodingsNeverDecode :
    (decodeWord testConfig 0xD518ED1F#32 = .ok (.msrPFAR 31#5) ∧ (Instr.msrPFAR 31#5).trapField = some .nPFAR)
      ∧ decodeWord testConfig 0xD558EC1E#32 = .ok (.msrrRCWSMASK 30#5)
      ∧ (Instr.msrrRCWSMASK 30#5).trapField = some .nRCWSMASK :=
  ⟨⟨rfl, rfl⟩, rfl, rfl⟩

/-- With every `enc(T)` supplied and `layout(MSRR)` OPEN, the word of the MSRR is not decoded (R57). -/
theorem test_decode_open_msrr :
    decodeWord { testConfig with msrr := none } 0xD558EC1E#32 = .error .notDecoded := by rfl

theorem witness_SameTupleForReadAndWrite : testConfig.encodingsOk = true := by decide

/-- At EL2 and at EL3, under each policy. -/
theorem witness_MrsDirectCompletes :
    DirectCondition (at_ .el2 0#3 0x7FFD#64) ∧ DirectCondition (at3 .el3 0#1 0x7FFD#64)
      ∧ DirectCondition (withPolicy .stored true true (at_ .el2 0#3 0x8002#64)) := by
  simp only [DirectCondition, Present, LockedByEL3]; decide

theorem witness_MrsNvMemCellCompletes :
    NvMemCondition { at_ .el1 5#3 0#64 with nvCell := some 7#64 } ∧ (at_ .el1 5#3 0#64).inp.nvMemFault = false
      ∧ (at_ .el1 5#3 0#64).cfg.nvMap = none :=
  ⟨nvMem_101, rfl, rfl⟩

/-- Both byte orders. -/
theorem witness_MrsNvMemBytesCompletes :
    let s := { mapped true (at_ .el1 7#3 0#64) with mem := eightBytes }
    let m : NvMap := ⟨0x1000#64, true⟩
    NvMemCondition s ∧ s.inp.nvMemFault = false ∧ s.cfg.nvMap = some m ∧ m.base.toNat % 8 = 0
      ∧ s.byteAt (nvAddress m) = some 1#8 ∧ s.byteAt (nvAddress m + 1) = some 2#8
      ∧ s.byteAt (nvAddress m + 2) = some 3#8 ∧ s.byteAt (nvAddress m + 3) = some 4#8
      ∧ s.byteAt (nvAddress m + 4) = some 5#8 ∧ s.byteAt (nvAddress m + 5) = some 6#8
      ∧ s.byteAt (nvAddress m + 6) = some 7#8 ∧ s.byteAt (nvAddress m + 7) = some 8#8 :=
  ⟨nvMem_111, by decide⟩

/-- The two clauses: bit 63 refused under `refuse`; the same value accepted under `razWi`. -/
theorem witness_MsrDirectByPolicy :
    let s := withX 0#5 0x8000000000000000#64 (at_ .el2 0#3 0#64)
    let r := withPolicy .razWi true true s
    (DirectCondition s ∧ s.cfg.res0Policy = .refuse ∧ s.x 0#5 &&& ~~~(wmask s.cfg) ≠ 0#64)
      ∧ (DirectCondition r ∧ ¬ (r.cfg.res0Policy = .refuse ∧ r.x 0#5 &&& ~~~(wmask r.cfg) ≠ 0#64)) := by
  simp only [DirectCondition, Present, LockedByEL3]; decide

theorem witness_MsrNvMemCellCompletes :
    NvMemCondition (at_ .el1 7#3 0#64) ∧ (at_ .el1 7#3 0#64).inp.nvMemFault = false
      ∧ (at_ .el1 7#3 0#64).cfg.nvMap = none :=
  ⟨nvMem_111, rfl, rfl⟩

theorem witness_MsrNvMemBytesCompletes :
    let s := mapped false (at_ .el1 5#3 0#64)
    let m : NvMap := ⟨0x1000#64, false⟩
    NvMemCondition s ∧ s.inp.nvMemFault = false ∧ s.cfg.nvMap = some m ∧ m.base.toNat % 8 = 0
      ∧ (∀ i, i < 8 → s.text.read (nvAddress m + i) = none) :=
  ⟨nvMem_101, rfl, rfl, by decide, fun _ _ => rfl⟩

/-- One state for each of the five clauses. -/
theorem witness_NvMemAccessStops :
    let s := at_ .el1 7#3 0#64
    let m : NvMap := ⟨0x1000#64, false⟩
    let odd : NvMap := ⟨0x1004#64, false⟩
    let b := mapped false s
    let c := { s with cfg := { s.cfg with nvMap := some odd } }
    let x := { b with text := [(0x12CF, 0#8)] }
    (NvMemCondition s ∧ NvMemCondition b ∧ NvMemCondition c ∧ NvMemCondition x)
      ∧ { s.inp with nvMemFault := true }.nvMemFault = true
      ∧ (s.inp.nvMemFault = false ∧ s.cfg.nvMap = none ∧ s.nvCell = none)
      ∧ (b.cfg.nvMap = some m ∧ m.base.toNat % 8 = 0 ∧ b.byteAt (nvAddress m + 7) = none)
      ∧ (c.cfg.nvMap = some odd ∧ odd.base.toNat % 8 ≠ 0)
      ∧ (x.cfg.nvMap = some m ∧ (x.text.read (nvAddress m + 7)).isSome) :=
  ⟨⟨nvMem_111, nvMem_111, nvMem_111, nvMem_111⟩, by decide⟩

/-- The first clause of `NvMemAccessStops`: a state whose environment selects the fault. -/
theorem witness_NvMemAccessStops_fault :
    let s := { at_ .el1 7#3 0#64 with inp := { Inputs.reset with nvx := 7#3, nvMemFault := true } }
    NvMemCondition s ∧ s.inp.nvMemFault = true := by
  simp only [NvMemCondition, Present]; decide

/-- `nvx` = 001 and 011. -/
theorem witness_AccessTrapsToEL2 :
    TrapEL2Condition (at_ .el1 1#3 0#64) ∧ TrapEL2Condition (at_ .el1 3#3 0#64) := by
  simp only [TrapEL2Condition, Present]; decide

theorem witness_AccessTrapsToEL3 : TrapEL3Condition (at3 .el2 0#1 0#64) := by
  simp only [TrapEL3Condition, Present, LockedByEL3]; decide

/-- EL0, EL1 with `nvx` 000 and 110, EL2 with `sdd`, and EL3 with the register not present. -/
theorem witness_UndefinedAccessTaken :
    UndefinedCondition (at_ .el0 0#3 0#64) ∧ UndefinedCondition (at_ .el1 0#3 0#64)
      ∧ UndefinedCondition (at_ .el1 6#3 0#64)
      ∧ UndefinedCondition { at3 .el2 0#1 0#64 with inp := { Inputs.reset with sdd := true } }
      ∧ UndefinedCondition { at3 .el3 1#1 0#64 with cfg := { Config.default with featAA64 := false } } := by
  refine ⟨?_, ?_, ?_, ?_, ?_⟩ <;> (simp only [UndefinedCondition, Present, LockedByEL3]; decide)

/-- Both paths. -/
theorem witness_ReadAfterWriteOnOnePath :
    (DirectCondition (at_ .el2 0#3 0x7FFD#64) ∧ ∃ s1, exec (.msrHFGWTR2 0#5) (at_ .el2 0#3 0x7FFD#64) = .next s1)
      ∧ (NvMemCondition (at_ .el1 7#3 0#64) ∧ ∃ s1, exec (.msrHFGWTR2 31#5) (at_ .el1 7#3 0#64) = .next s1) :=
  ⟨⟨direct_el2, _, rfl⟩, nvMem_111, _, rfl⟩

theorem witness_NvMemWriteArmsNothing :
    (.msrPFAR 2#5, 0, Config.featPFAR, 0x18#6) ∈ trappedWrites 2#5 ∧ NvMemCondition (at_ .el1 7#3 0#64)
      ∧ ∃ s1, exec (.msrHFGWTR2 0#5) (at_ .el1 7#3 0#64) = .next s1 :=
  ⟨by simp [trappedWrites], nvMem_111, _, rfl⟩

theorem witness_El1AccessIndependentOfRegister :
    (at_ .el0 0#3 0#64).pstate.el = .el0 ∧ (at_ .el1 7#3 0#64).pstate.el = .el1 := ⟨rfl, rfl⟩

/-- All 15 writes trap at EL1 with the register 0 (section 7, column "HFGWTR2_EL2 = 0"). -/
theorem witness_TrappedWritesComplete :
    ∀ p ∈ trappedWrites 2#5, TrapApplies (at_ .el1 0#3 0#64) p.2.1 p.2.2.1
      ∧ (at_ .el1 0#3 0#64).inp.higherPrio = false := by
  intro p hp
  simp only [trappedWrites, List.mem_cons, List.not_mem_nil, or_false] at hp
  rcases hp with rfl | rfl | rfl | rfl | rfl | rfl | rfl | rfl | rfl | rfl | rfl | rfl | rfl | rfl | rfl <;>
    (simp only [TrapApplies, EffectiveZero, Present, LockedByEL3]; decide)

/-- The three clauses, at the lowest and the highest bit: rows K1, K3 and K2 and their like for bit 14. -/
theorem witness_TrapOutcomesAreR70 :
    let s := at_ .el1 0#3 0x3FFC#64
    let h := { s with inp := { s.inp with higherPrio := true } }
    let n := at_ .el1 0#3 0x7FFD#64
    (TrapApplies s 0 Config.featPFAR ∧ TrapApplies s 14 Config.featSRMASK ∧ s.inp.higherPrio = false)
      ∧ (TrapApplies h 0 Config.featPFAR ∧ TrapApplies h 14 Config.featSRMASK ∧ h.inp.higherPrio = true)
      ∧ (¬ TrapApplies n 0 Config.featPFAR ∧ ¬ TrapApplies n 14 Config.featSRMASK) := by
  refine ⟨⟨?_, ?_, rfl⟩, ⟨?_, ?_, rfl⟩, ?_, ?_⟩ <;>
    (simp only [TrapApplies, EffectiveZero, Present, LockedByEL3]; decide)

theorem witness_TrapReadsOnlyItsOwnBit :
    (.msrPFAR 2#5, 0, Config.featPFAR, 0x18#6) ∈ trappedWrites 2#5
      ∧ (0x7FFC#64).getLsbD 0 = (at_ .el1 0#3 0#64).hfgwtr2.getLsbD 0 :=
  ⟨by simp [trappedWrites], by decide⟩

/-- Both values of the parameter. -/
theorem witness_IgnoredFieldsByParameter :
    let s := at3 .el1 0#1 0x7FFD#64
    let n := { s with cfg := { s.cfg with fgtEn2ZeroMeans := .noTrap } }
    (.msrPFAR 2#5, 0, Config.featPFAR, 0x18#6) ∈ trappedWrites 2#5
      ∧ (Present s ∧ Config.featPFAR s.cfg = true ∧ s.inp.el2Enabled = true ∧ s.pstate.el = .el1
        ∧ s.pstate.aarch64 = true ∧ s.inp.higherPrio = false ∧ LockedByEL3 s
        ∧ s.cfg.fgtEn2ZeroMeans = .treatedAsZero)
      ∧ (Present n ∧ LockedByEL3 n ∧ n.cfg.fgtEn2ZeroMeans = .noTrap) :=
  ⟨by simp [trappedWrites], by simp only [Present, LockedByEL3]; decide⟩

/-- The MSR and the MSRR of RCWSMASK_EL1 both answer a next state where bit 2 is 0. -/
theorem witness_RcwsmaskWritesArmedTogether :
    (∃ s1, exec (.msrRCWSMASK 1#5) (at_ .el1 0#3 0x7FF9#64) = .next s1)
      ∧ ∃ s2, exec (.msrrRCWSMASK 2#5) (at_ .el1 0#3 0x7FF9#64) = .next s2 :=
  ⟨⟨_, rfl⟩, _, rfl⟩

theorem witness_TrappedMsrSyndrome :
    (Instr.msrPFAR 31#5).trapField = some .nPFAR ∧ (∀ t, Instr.msrPFAR 31#5 ≠ .msrrRCWSMASK t)
      ∧ testConfig.encOf .nPFAR = some (testEnc 13)
      ∧ ∃ s', exec (.msrPFAR 31#5) { at_ .el1 0#3 0#64 with cfg := testConfig } = .next s' :=
  ⟨rfl, fun _ => by simp, rfl, _, rfl⟩

/-- Program P1 with the entry of PFAR_EL1: the write at EL2, then EL1 with the register as it was left. -/
theorem witness_SynchronizedWriteGoverns :
    let s := withX 0#5 0x40#64 (at_ .el2 0#3 0#64)
    let s2 := at_ .el1 0#3 0x40#64
    (.msrPFAR 2#5, 0, Config.featPFAR, 0x18#6) ∈ trappedWrites 2#5 ∧ DirectCondition s
      ∧ (∃ s1, exec (.msrHFGWTR2 0#5) s = .next s1 ∧ s2.cfg = s1.cfg ∧ s2.hfgwtr2 = s1.hfgwtr2)
      ∧ SynchronizedAfterWrite s2 ∧ s2.cfg.haveEL2 = true ∧ Config.featPFAR s2.cfg = true
      ∧ s2.inp.el2Enabled = true ∧ s2.pstate.el = .el1 ∧ s2.pstate.aarch64 = true ∧ s2.inp.higherPrio = false
      ∧ ¬ LockedByEL3 s2 :=
  ⟨by simp [trappedWrites], direct_el2, ⟨_, rfl, rfl, rfl⟩, rfl, rfl, rfl, rfl, rfl, rfl, rfl,
    by simp only [LockedByEL3]; decide⟩

/-- A completed MRS, an UNDEFINED one and a trapped MSRR: the hypothesis of the statements about what an instruction that
answers a next state did. -/
theorem witness_ExceptionsThatOccur :
    (∃ s', exec (.mrsHFGWTR2 0#5) (at_ .el2 0#3 0#64) = .next s')
      ∧ (∃ s', exec (.mrsHFGWTR2 0#5) (at_ .el0 0#3 0#64) = .next s')
      ∧ ∃ s', exec (.msrrRCWSMASK 2#5) (at_ .el1 0#3 0#64) = .next s' :=
  ⟨⟨_, rfl⟩, ⟨_, rfl⟩, _, rfl⟩

/-- Both clauses. -/
theorem witness_Class14IsTheMsrr :
    (∃ s', exec (.msrrRCWSMASK 2#5) (at_ .el1 0#3 0#64) = .next s')
      ∧ (∃ s', exec (.msrPFAR 2#5) (at_ .el1 0#3 0#64) = .next s') ∧ ∀ t, Instr.msrPFAR 2#5 ≠ .msrrRCWSMASK t :=
  ⟨⟨_, rfl⟩, ⟨_, rfl⟩, fun _ => by simp⟩

theorem witness_InstructionsNeverLowerLevel :
    ∃ s', exec (.msrPFAR 2#5) (at_ .el1 0#3 0#64) = .next s' := ⟨_, rfl⟩

theorem witness_EntryThenReturnRestores :
    (at_ .el1 0#3 0#64).pstate.el.rank ≤ TargetEL.el2.level.rank
      ∧ (at_ .el1 0#3 0#64).cfg.implements (at_ .el1 0#3 0#64).pstate.el = true := by decide

/-- Each policy, and under `refuse` both a value of 0 and one of 1. -/
theorem witness_WithoutEL2RegisterIsRes0 :
    let s := { at_ .el3 0#3 0#64 with cfg := { Config.default with haveEL2 := false, haveEL3 := true } }
    let one := withX 0#5 1#64 s
    (Present s ∧ s.cfg.haveEL2 = false ∧ s.pstate.el = .el3)
      ∧ (s.cfg.res0Policy ≠ .stored ∧ s.cfg.res0Policy = .refuse ∧ s.x 0#5 = 0#64 ∧ one.x 0#5 ≠ 0#64)
      ∧ (withPolicy .razWi true true s).cfg.res0Policy = .razWi := by
  simp only [Present]; decide

/-- A Warm and a Cold reset, on hardware with EL2 alone and with EL3. -/
theorem witness_ResetLeavesRegister :
    let s := { at_ .el1 0#3 5#64 with env := [.move (.warmReset (boot 7#64 .el2))] }
    let h := { at3 .el1 0#1 5#64 with env := [.move (.coldReset (boot 7#64 .el3))] }
    (s.env = [.move (.warmReset (boot 7#64 .el2))] ∧ s.cfg.haveEL2 = true ∧ s.cfg.haveEL3 = false)
      ∧ (h.env = [.move (.coldReset (boot 7#64 .el3))] ∧ ¬ (h.cfg.haveEL2 = true ∧ h.cfg.haveEL3 = false)) := by
  decide

/-- The reset state with `MSR HFGWTR2_EL2, XZR` placed meets the invariant and steps. -/
theorem witness_StepKeepsInvariant :
    Inv (State.reset.withFetchWord 32 0xD51C317F)
      ∧ ∃ s', step (State.reset.withFetchWord 32 0xD51C317F) = .next s' :=
  ⟨⟨by decide, by decide, by decide, by decide, by decide, by decide, by decide, by decide, fun _ _ => rfl, by decide⟩,
    _, rfl⟩

theorem witness_StepKeepsConfigAndText :
    ∃ s', step (State.reset.withFetchWord 32 0xD53C3160) = .next s' := ⟨_, rfl⟩

theorem witness_InstructionsNeverWriteInputs : ∃ s', exec (.mrsHFGWTR2 0#5) State.reset = .next s' := ⟨_, rfl⟩

/-- A step that changes the register: program P1 step 1. -/
theorem witness_OnlyDirectWriteOrResetChanges :
    ∃ s', step ((withX 0#5 0x40#64 State.reset).withFetchWord 32 0xD51C3160) = .next s'
      ∧ s'.hfgwtr2 ≠ ((withX 0#5 0x40#64 State.reset).withFetchWord 32 0xD51C3160).hfgwtr2 :=
  ⟨_, rfl, by decide⟩

theorem witness_StepRunsDecoded :
    let s := State.reset.withFetchWord 32 0xD53C3160
    InstructionNext s s ∧ s.pstate.aarch64 = true ∧ s.pc.toNat % 4 = 0 ∧ s.text.read s.pc.toNat = some 0x60#8
      ∧ s.text.read (s.pc.toNat + 1) = some 0x31#8 ∧ s.text.read (s.pc.toNat + 2) = some 0x3C#8
      ∧ s.text.read (s.pc.toNat + 3) = some 0xD5#8
      ∧ decode s.cfg [0x60#8, 0x31#8, 0x3C#8, 0xD5#8] = .ok (.mrsHFGWTR2 0#5, []) :=
  ⟨.inl ⟨rfl, rfl⟩, by decide, by decide, by decide, by decide, by decide, by decide, rfl⟩

theorem witness_PlacedWordRuns :
    State.reset.pc.toNat % 4 = 0 ∧ State.reset.pstate.aarch64 = true
      ∧ decodeWord State.reset.cfg 0xD53C317F#32 = .ok (.mrsHFGWTR2 31#5) :=
  ⟨by decide, rfl, rfl⟩

theorem witness_UndecodedWordRefused :
    State.reset.pc.toNat % 4 = 0 ∧ State.reset.pstate.aarch64 = true
      ∧ decodeWord State.reset.cfg 0#32 = .error .notDecoded :=
  ⟨by decide, rfl, rfl⟩

/-- Both clauses: a program counter of 2, and the fourth byte of the word missing. -/
theorem witness_FetchStops :
    let s := { State.reset with pc := 2#64 }
    let m := { State.reset with text := [(0, 0#8), (1, 0#8), (2, 0#8)] }
    (InstructionNext s s ∧ s.pstate.aarch64 = true ∧ s.pc.toNat % 4 ≠ 0)
      ∧ (InstructionNext m m ∧ m.pstate.aarch64 = true ∧ m.pc.toNat % 4 = 0
        ∧ m.text.read (m.pc.toNat + 3) = none) :=
  ⟨⟨.inl ⟨rfl, rfl⟩, by decide⟩, .inl ⟨rfl, rfl⟩, by decide⟩

theorem witness_EnvironmentMovesFirst :
    { State.reset with env := [.move .contextSync] }.env = [.move .contextSync] := rfl

theorem witness_Aarch32StepRefused :
    let s := { State.reset with pstate := ⟨.el1, false, false⟩ }
    InstructionNext s s ∧ s.pstate.aarch64 = false := ⟨.inl ⟨rfl, rfl⟩, rfl⟩

/-- Program P1 with the environment's move of its step 3 between two instruction steps: `MSR HFGWTR2_EL2, X0` at EL2,
the move to EL1, and an instruction step. -/
def p1Scheduled : State :=
  { (withX 0#5 0x40#64 State.reset).withFetchWord 32 0xD51C3160 with
    env := [.instr, .move (.setPState ⟨.el1, true, false⟩), .instr] }

/-- The other form of the hypothesis of `StepRunsDecoded`, `FetchStops` and `Aarch32StepRefused`: a scheduled step. -/
theorem witness_InstructionNext_scheduled :
    InstructionNext p1Scheduled { p1Scheduled with env := [.move (.setPState ⟨.el1, true, false⟩), .instr] }
      ∧ p1Scheduled.pstate.aarch64 = true ∧ fetch p1Scheduled = .next [0x60#8, 0x31#8, 0x1C#8, 0xD5#8]
      ∧ decode p1Scheduled.cfg [0x60#8, 0x31#8, 0x1C#8, 0xD5#8] = .ok (.msrHFGWTR2 0#5, []) :=
  ⟨.inr ⟨_, rfl, rfl⟩, rfl, rfl, rfl⟩

theorem witness_StepTakesOneEvent : ∃ s', step p1Scheduled = .next s' := ⟨_, rfl⟩

/-- The hypotheses, and that the third clause's instruction is there to fetch once the program text holds a second word. -/
theorem witness_MoveFallsBetweenInstructions :
    let t : State := { p1Scheduled with text := p1Scheduled.text.writeBytes 4 (bytesOfWord 0xD53C3161#32) }
    t.env = .instr :: .move (.setPState ⟨.el1, true, false⟩) :: .instr :: []
      ∧ ∃ s1 s2, step t = .next s1 ∧ step s1 = .next s2 ∧ s2.pstate.aarch64 = true
        ∧ fetch s2 = .next [0x61#8, 0x31#8, 0x3C#8, 0xD5#8]
        ∧ decode s2.cfg [0x61#8, 0x31#8, 0x3C#8, 0xD5#8] = .ok (.mrsHFGWTR2 1#5, []) :=
  ⟨rfl, _, _, rfl, rfl, rfl, rfl, rfl⟩

theorem witness_StepIsInstructionOrMove :
    (∃ s', step p1Scheduled = .next s') ∧ ∃ s', step { State.reset with env := [.move .contextSync] } = .next s' :=
  ⟨⟨_, rfl⟩, _, rfl⟩

/-- A trapped write, and two values that differ in bits 1 and 63 alone. -/
theorem witness_NothingElseIsTrapped :
    writeTrapCheck .nPFAR (at_ .el1 0#3 0#64) = .trap
      ∧ ∀ k, k = 0 ∨ (2 ≤ k ∧ k ≤ 14) →
        (0x8000000000000002#64).getLsbD k = (at_ .el1 0#3 0#64).hfgwtr2.getLsbD k := by
  refine ⟨by decide, fun k hk => ?_⟩
  have : ∀ k, k < 15 → k ≠ 1 → (0x8000000000000002#64).getLsbD k = (at_ .el1 0#3 0#64).hfgwtr2.getLsbD k := by decide
  exact this k (by omega) (by omega)

/-- One state for each clause: the bit 0 with `sdd` false and with `sdd_prio` alone, EL3 and EL1, the bit 1, and no EL3. -/
theorem witness_El3ControlIsR102 :
    let s := at3 .el2 0#1 0x7FFD#64
    let p := { s with inp := { s.inp with sddPrio := true } }
    let one := at3 .el2 1#1 0x7FFD#64
    let no := at_ .el2 0#3 0x7FFD#64
    (LockedByEL3 s ∧ s.cfg.fgtEn2ZeroMeans = .treatedAsZero ∧ Present s ∧ s.pstate.el = .el2)
      ∧ (LockedByEL3 p ∧ Present p ∧ p.pstate.el = .el2 ∧ p.inp.sddPrio = true ∧ p.inp.sdd = false)
      ∧ ((at3 .el3 0#1 0#64).pstate.el = .el3 ∧ (at3 .el1 0#1 0#64).pstate.el = .el1)
      ∧ (one.inp.fgtEn2 = 1#1 ∧ Present one ∧ one.pstate.el = .el2)
      ∧ (no.cfg.haveEL3 = false ∧ Present no ∧ no.pstate.el = .el2) := by
  refine ⟨?_, ?_, ?_, ?_, ?_⟩ <;> first | decide | (simp only [LockedByEL3, Present]; decide)

/-- The three outcomes of `FGT2WriteTrap`: rows K1, K3 and K2. -/
theorem witness_FgtCheckIsR70 :
    let s := at_ .el1 0#3 0x7FFC#64
    fgt2WriteTrap .nPFAR s = .trap
      ∧ fgt2WriteTrap .nPFAR { s with inp := { s.inp with higherPrio := true } } = .higherPriority
      ∧ fgt2WriteTrap .nPFAR (at_ .el1 0#3 0x7FFD#64) = .notTrappedHere := by decide

/-- A scheduled instruction step runs its instruction and leaves the move that follows it for the next step. -/
theorem test_schedule :
    nextWith (step p1Scheduled)
      (fun s => s.hfgwtr2 == 0x40#64 && s.env == [.move (.setPState ⟨.el1, true, false⟩), .instr]) = true := by decide

end Sys2Proof.Tests
end

/-! # The scope: what a step, an instruction and a move of the environment leave fixed (00_scope.md)

An instruction keeps all that `FixedKept` names; a move of the environment keeps the same but the inputs of R3, which it
may set. The step takes its event off the schedule and then does one of the two. -/

namespace Sys2Proof.Machine

/-! ## What each operation leaves fixed -/

/-- An exception entry writes PSTATE, the program counter and one bank, and nothing that is fixed (R97). -/
theorem takeException_fixedKept (tgt : TargetEL) (y : Syndrome) (s : State) : FixedKept s (takeException tgt y s) := by
  simp [FixedKept]

/-- An entry with a free syndrome moves the counter of free values as well (assumption 18), which is not fixed. -/
theorem takeException_tick_fixedKept (tgt : TargetEL) (y : Syndrome) (s : State) :
    FixedKept s (takeException tgt y s.tick) := by
  simp [FixedKept]

theorem setX_advancePc_fixedKept (t : RegNum) (v : Word) (s : State) : FixedKept s (s.setX t v).advancePc := by
  simp [FixedKept]

/-- Moving the program counter past an instruction keeps what is fixed so far. -/
theorem FixedKept.advancePc {s u : State} (h : FixedKept s u) : FixedKept s u.advancePc := h

theorem writeHfgwtr2_fixedKept {v : Word} {s s' : State} (h : writeHfgwtr2 v s = .next s') : FixedKept s s' := by
  obtain ⟨w, -, rfl⟩ := writeHfgwtr2_next h
  exact ⟨rfl, rfl, rfl, rfl⟩

/-- A store behind NVMem writes the cell or the byte memory outside the program text (R41, R48). -/
theorem nvMemStore_fixedKept {v : Word} {s s' : State} (h : nvMemStore v s = .next s') : FixedKept s s' := by
  obtain ⟨-, rfl⟩ | ⟨m, -, -, -, rfl⟩ := nvMemStore_next h
  · exact ⟨rfl, rfl, rfl, rfl⟩
  · exact ⟨rfl, rfl, rfl, rfl⟩

/-- A return from an exception writes PSTATE and the program counter (R98). -/
theorem exceptionReturn_fixedKept {s s' : State} (h : exceptionReturn s = .next s') : FixedKept s s' := by
  obtain ⟨tgt, -, hret⟩ := exceptionReturn_next h
  obtain ⟨-, -, rfl⟩ := returnTo_next hret
  exact ⟨rfl, rfl, rfl, rfl⟩

/-! ## What an instruction leaves fixed -/

theorem execMrsHFGWTR2_fixedKept {t : RegNum} {s s' : State} (h : execMrsHFGWTR2 t s = .next s') : FixedKept s s' := by
  obtain ⟨-, rfl⟩ | ⟨-, rfl⟩ | ⟨-, rfl⟩ | ⟨-, v, -, rfl⟩ | ⟨-, rfl⟩ := execMrsHFGWTR2_next h
  · exact takeException_tick_fixedKept ..
  · exact takeException_fixedKept ..
  · exact takeException_fixedKept ..
  · exact setX_advancePc_fixedKept ..
  · exact setX_advancePc_fixedKept ..

theorem execMsrHFGWTR2_fixedKept {t : RegNum} {s s' : State} (h : execMsrHFGWTR2 t s = .next s') : FixedKept s s' := by
  obtain ⟨-, rfl⟩ | ⟨-, rfl⟩ | ⟨-, rfl⟩ | ⟨-, u, hu, rfl⟩ | ⟨-, u, hu, rfl⟩ := execMsrHFGWTR2_next h
  · exact takeException_tick_fixedKept ..
  · exact takeException_fixedKept ..
  · exact takeException_fixedKept ..
  · obtain ⟨-, hstore⟩ := nvMemWrite_next hu
    exact (nvMemStore_fixedKept hstore).advancePc
  · exact (writeHfgwtr2_fixedKept hu).advancePc

theorem trappedMsr_fixedKept {f : TrapField} {t : RegNum} {s s' : State} (h : trappedMsr f t s = .next s') :
    FixedKept s s' := by
  obtain ⟨-, rfl⟩ := trappedMsr_next h
  exact takeException_fixedKept ..

theorem trappedMsrr_fixedKept {f : TrapField} {s s' : State} (h : trappedMsrr f s = .next s') : FixedKept s s' := by
  obtain ⟨-, rfl⟩ := trappedMsrr_next h
  exact takeException_tick_fixedKept ..

/-- The instructions are the two accesses of HFGWTR2_EL2 and the writes that one of its fields traps (R58, R88). -/
theorem instr_access_or_trapField (i : Instr) :
    (∃ t, i = .mrsHFGWTR2 t) ∨ (∃ t, i = .msrHFGWTR2 t) ∨ ∃ f, i.trapField = some f := by
  cases i with
  | mrsHFGWTR2 t => exact .inl ⟨t, rfl⟩
  | msrHFGWTR2 t => exact .inr (.inl ⟨t, rfl⟩)
  | _ => exact .inr (.inr ⟨_, rfl⟩)

/-- No instruction changes the configuration, the inputs, the program text or the schedule (R2, R3, R48). -/
theorem exec_fixedKept {i : Instr} {s s' : State} (h : exec i s = .next s') : FixedKept s s' := by
  obtain ⟨t, rfl⟩ | ⟨t, rfl⟩ | ⟨f, hf⟩ := instr_access_or_trapField i
  · exact execMrsHFGWTR2_fixedKept h
  · exact execMsrHFGWTR2_fixedKept h
  · obtain ⟨-, hmsr⟩ | ⟨-, -, hmsrr⟩ := exec_of_trapField s hf
    · exact trappedMsr_fixedKept (hmsr ▸ h)
    · exact trappedMsrr_fixedKept (hmsrr ▸ h)

/-! ## What a move of the environment and a step leave fixed -/

/-- The configuration, the program text and the schedule are unchanged: what is left of `FixedKept` under a move of the
environment, which may set the inputs. -/
def ConfigTextEnvKept (s s' : State) : Prop := s'.cfg = s.cfg ∧ s'.text = s.text ∧ s'.env = s.env

theorem FixedKept.configTextEnvKept {s s' : State} (h : FixedKept s s') : ConfigTextEnvKept s s' := by
  obtain ⟨hcfg, -, htext, henv⟩ := h
  exact ⟨hcfg, htext, henv⟩

/-- A move of the environment, a reset included, keeps the configuration, the program text and the rest of the
schedule. -/
theorem applyMove_configTextEnvKept {m : EnvMove} {s s' : State} (h : applyMove m s = .next s') :
    ConfigTextEnvKept s s' := by
  obtain ⟨i, -, rfl⟩ | ⟨p, -, rfl⟩ | ⟨t, v, -, rfl⟩ | ⟨a, -, rfl⟩ | ⟨b1, b2, b3, -, rfl⟩ | ⟨v, -, hstore⟩ | ⟨-, rfl⟩
    | ⟨-, hret⟩ | ⟨b, -, rfl⟩ := applyMove_next h
  · exact ⟨rfl, rfl, rfl⟩
  · exact ⟨rfl, rfl, rfl⟩
  · exact ⟨rfl, rfl, rfl⟩
  · exact ⟨rfl, rfl, rfl⟩
  · exact ⟨rfl, rfl, rfl⟩
  · exact (nvMemStore_fixedKept hstore).configTextEnvKept
  · exact ⟨rfl, rfl, rfl⟩
  · exact (exceptionReturn_fixedKept hret).configTextEnvKept
  · exact ⟨rfl, rfl, rfl⟩

/-- A step takes one event off the schedule, and keeps the configuration, the program text and the rest of the
schedule. -/
theorem step_configTextEnvKept {s s' : State} (h : step s = .next s') :
    ConfigTextEnvKept { s with env := s.env.tail } s' := by
  obtain ⟨m, es, henv, hmove⟩ | ⟨-, -, bs, i, rest, -, -, hexec⟩ := step_next h
  · rw [henv, List.tail_cons]
    exact applyMove_configTextEnvKept hmove
  · exact (exec_fixedKept hexec).configTextEnvKept

/-- Outside AArch64 state no instruction step has a meaning (decision D25). -/
theorem runInstr_of_aarch32 {s : State} (h : s.pstate.aarch64 = false) : runInstr s = .refused .aarch32State := by
  simp [runInstr, h]

/-- Where an instruction step is next, the step is that instruction step, in the state past its event. -/
theorem step_of_instructionNext {s u : State} (h : InstructionNext s u) : step s = runInstr u := by
  obtain ⟨hend, rfl⟩ | ⟨es, hnext, rfl⟩ := h
  · exact step_of_end hend
  · exact step_of_instr hnext

/-- Taking the instruction's event off the schedule leaves PSTATE as it was. -/
theorem InstructionNext.pstate_eq {s u : State} (h : InstructionNext s u) : u.pstate = s.pstate := by
  obtain ⟨-, rfl⟩ | ⟨es, -, rfl⟩ := h
  · rfl
  · rfl

/-! ## The obligations -/

/-- Settles O39: what `ConfigTextEnvKept` says of the state past the event, which has the configuration and the program
text of the state before it. -/
theorem stepKeepsConfigAndText : Obligations.StepKeepsConfigAndText := by
  intro s s' h
  obtain ⟨hcfg, htext, -⟩ := step_configTextEnvKept h
  exact ⟨hcfg, htext⟩

/-- Settles O40, by the case split over the instructions in `exec_fixedKept`. -/
theorem instructionsNeverWriteInputs : Obligations.InstructionsNeverWriteInputs := by
  intro i s s' h
  obtain ⟨-, hinp, -, henv⟩ := exec_fixedKept h
  exact ⟨hinp, henv⟩

/-- Settles O48: an empty schedule has itself as its tail, so the end of the schedule needs no case of its own. -/
theorem stepTakesOneEvent : Obligations.StepTakesOneEvent := by
  intro s s' h
  obtain ⟨-, -, henv⟩ := step_configTextEnvKept h
  exact henv

/-- Settles O46, by the step of a scheduled move and the meaning of the Context synchronization event (R47). -/
theorem environmentMovesFirst : Obligations.EnvironmentMovesFirst := by
  intro s m es henv
  have hstep : step s = applyMove m { s with env := es } := step_of_move henv
  refine ⟨hstep, ?_⟩
  rintro rfl
  exact ⟨{ s with env := es, unsynced := false }, hstep, rfl, rfl⟩

/-- Settles O47, in both forms of `InstructionNext`: a scheduled instruction step and one after the schedule's end. -/
theorem aarch32StepRefused : Obligations.Aarch32StepRefused := by
  intro s u hnext haarch32
  rw [step_of_instructionNext hnext]
  exact runInstr_of_aarch32 (hnext.pstate_eq ▸ haarch32)

end Sys2Proof.Machine

/-! # The register's bits, its reset, the invariant, and what changes the register (10_state.md)

The invariant is kept operation by operation: each update of the state keeps `Inv` under the one condition that the update
puts at risk, an implemented target level for an exception entry, an aligned address for the program counter. An
instruction, a move of the environment and a step then assemble these. -/

namespace Sys2Proof.Machine

/-! ## Which bits the register implements (R11, R29) -/

/-- The mask of the fields that FEAT_SRMASK gates is bits 14 to 3 (R11). -/
theorem getLsbD_srmaskFields (k : Nat) : (0x7FF8#64).getLsbD k = decide (3 ≤ k ∧ k ≤ 14) := by
  by_cases hk : k < 64
  · have hbits : ∀ j < 64, (0x7FF8#64).getLsbD j = decide (3 ≤ j ∧ j ≤ 14) := by decide
    exact hbits k hk
  · rw [BitVec.getLsbD_of_ge _ _ (by omega), eq_comm, decide_eq_false_iff_not]
    omega

/-- A mask that a feature gates has its bits where the feature is implemented. -/
theorem getLsbD_gate (b : Bool) (m : Word) (k : Nat) :
    (if b = true then m else 0#64).getLsbD k = (b && m.getLsbD k) := by
  cases b <;> simp

theorem getLsbD_wmask (c : Config) (k : Nat) :
    (wmask c).getLsbD k = (c.haveEL2 && (c.featSRMASK && decide (3 ≤ k ∧ k ≤ 14) || c.featTHE && decide (k = 2)
      || c.featPFAR && decide (k = 0))) := by
  have hbit2 : (0x4#64).getLsbD k = decide (k = 2) := by
    rw [show (0x4#64) = BitVec.twoPow 64 2 from rfl, BitVec.getLsbD_twoPow]
    simp [eq_comm]
  have hbit0 : (0x1#64).getLsbD k = decide (k = 0) := by
    rw [show (0x1#64) = BitVec.twoPow 64 0 from rfl, BitVec.getLsbD_twoPow]
    simp [eq_comm]
  rw [wmask, getLsbD_gate, BitVec.getLsbD_or, BitVec.getLsbD_or, getLsbD_gate, getLsbD_gate, getLsbD_gate,
    getLsbD_srmaskFields, hbit2, hbit0]

theorem wmask_of_noEL2 {c : Config} (h : c.haveEL2 = false) : wmask c = 0#64 := by simp [wmask, h]

/-! ## What a reset leaves in the register (R28, R111) -/

theorem highestEL_eq_el2_iff (c : Config) : c.highestEL = .el2 ↔ c.haveEL2 = true ∧ c.haveEL3 = false := by
  unfold Config.highestEL
  cases c.haveEL3 <;> cases c.haveEL2 <;> simp

theorem resetHfgwtr2_of_highestEL2 {c : Config} (h : c.highestEL = .el2) (u : Word) : resetHfgwtr2 c u = 0#64 := by
  simp [resetHfgwtr2, h]

theorem resetHfgwtr2_of_draw {c : Config} (h : c.highestEL ≠ .el2) (u : Word) :
    resetHfgwtr2 c u = if c.res0Policy = .stored then u else u &&& wmask c := by
  rw [resetHfgwtr2, if_neg h]
  cases c.res0Policy <;> simp

/-- A Warm and a Cold reset are one step to the boot state, past the reset's own event (R28, R110, decision D4). -/
theorem step_of_reset {s : State} {b : Boot} {m : EnvMove} {es : List EnvEvent}
    (hm : m = .warmReset b ∨ m = .coldReset b) (henv : s.env = .move m :: es) :
    step s = .next (bootState s.cfg b s.text es s.free) := by
  rw [step_of_move henv]
  obtain rfl | rfl := hm
  · rfl
  · rfl

/-! ## The access path (R60) -/

theorem level_of_accessPath_direct {s : State} (h : accessPath s = .direct) :
    s.pstate.el = .el2 ∨ s.pstate.el = .el3 := by
  unfold accessPath at h
  cases hel : s.pstate.el with
  | el0 => simp [hel] at h
  | el1 => simp only [hel] at h; split_ifs at h
  | el2 => exact .inl rfl
  | el3 => exact .inr rfl

theorem nvx_of_accessPath_trapEL2 {s : State} (h : accessPath s = .trapEL2) : s.inp.nvx ≠ 0#3 := by
  intro hnvx
  unfold accessPath at h
  cases hel : s.pstate.el with
  | el0 => simp [hel] at h
  | el1 => simp [hel, hnvx, nvxMatches1x1, nvxMatchesxx1] at h
  | el2 => simp only [hel] at h; split_ifs at h
  | el3 => simp only [hel] at h; split_ifs at h

theorem haveEL3_of_accessPath_trapEL3 {s : State} (h : accessPath s = .trapEL3) : s.cfg.haveEL3 = true := by
  by_contra hyes
  have hno : s.cfg.haveEL3 = false := Bool.eq_false_of_not_eq_true hyes
  unfold accessPath at h
  cases hel : s.pstate.el with
  | el0 => simp [hel] at h
  | el1 => simp only [hel] at h; split_ifs at h
  | el2 => simp only [hel, hno, Bool.false_and, Bool.false_eq_true, if_false] at h; split_ifs at h
  | el3 => simp only [hel] at h; split_ifs at h

/-- At EL3 nothing is in the way of an access where the register is present. -/
theorem accessPath_of_el3 {s : State} (hpresent : Present s) (hel : s.pstate.el = .el3) : accessPath s = .direct := by
  obtain ⟨hfgt2, haa64⟩ := hpresent
  simp [accessPath, Config.present, hfgt2, haa64, hel]

theorem execMrs_of_direct {s : State} (h : accessPath s = .direct) (t : RegNum) :
    exec (.mrsHFGWTR2 t) s = .next (s.setX t (res0Read s.cfg s.hfgwtr2)).advancePc := by
  simp only [exec, execMrsHFGWTR2, h]

theorem execMsr_of_direct_accepted {s : State} {t : RegNum} {w : Word} (h : accessPath s = .direct)
    (hw : res0Write s.cfg (s.x t) = .next w) :
    exec (.msrHFGWTR2 t) s = .next (State.advancePc { s with hfgwtr2 := w, unsynced := true }) := by
  simp only [exec, execMsrHFGWTR2, h, writeHfgwtr2, hw]

theorem execMsr_of_direct_refused {s : State} {t : RegNum} {r : Refusal} (h : accessPath s = .direct)
    (hr : res0Write s.cfg (s.x t) = .refused r) : exec (.msrHFGWTR2 t) s = .refused r := by
  simp only [exec, execMsrHFGWTR2, h, writeHfgwtr2, hr]

/-- What a direct read masks where the policy stores no RES0 bit (R12). -/
theorem res0Read_of_not_stored {c : Config} (h : c.res0Policy ≠ .stored) (v : Word) : res0Read c v = v &&& wmask c := by
  unfold res0Read
  cases hp : c.res0Policy with
  | refuse => rfl
  | razWi => rfl
  | stored => exact absurd hp h

/-! ## The trapped writes and their check (R70, R88) -/

/-- Each row of the table of R88 has the bit and the feature of the field that arms its trap. -/
theorem trapField_of_mem_trappedWrites {t : RegNum} {p : Instr × Nat × (Config → Bool) × BitVec 6}
    (h : p ∈ trappedWrites t) :
    ∃ f, p.1.trapField = some f ∧ p.2.1 = fieldBit f ∧ p.2.2.1 = fun c => fieldFeature c f := by
  simp only [trappedWrites, List.mem_cons, List.not_mem_nil, or_false] at h
  rcases h with rfl | rfl | rfl | rfl | rfl | rfl | rfl | rfl | rfl | rfl | rfl | rfl | rfl | rfl | rfl <;>
    exact ⟨_, rfl, rfl, rfl⟩

/-- A trapped write answers a next state exactly where its trap is taken. -/
theorem exec_next_iff_trap {i : Instr} {f : TrapField} (s : State) (hf : i.trapField = some f) :
    (∃ s', exec i s = .next s') ↔ writeTrapCheck f s = .trap := by
  obtain ⟨-, hexec⟩ | ⟨-, -, hexec⟩ := exec_of_trapField s hf
  · rw [hexec]
    exact ⟨fun ⟨_, h⟩ => (trappedMsr_next h).1, fun h => ⟨_, by rw [trappedMsr, h]⟩⟩
  · rw [hexec]
    exact ⟨fun ⟨_, h⟩ => (trappedMsrr_next h).1, fun h => ⟨_, by rw [trappedMsrr, h]⟩⟩

/-- A write that this register does not trap is outside the spec (R70, decision D24). -/
theorem exec_of_notTrappedHere {i : Instr} {f : TrapField} {s : State} (hf : i.trapField = some f)
    (h : writeTrapCheck f s = .notTrappedHere) : exec i s = .refused .untrappedWriteOutsideSpec := by
  obtain ⟨-, hexec⟩ | ⟨-, -, hexec⟩ := exec_of_trapField s hf
  · rw [hexec, trappedMsr, h]
  · rw [hexec, trappedMsrr, h]

/-- Under the ignore clause the parameter alone arms the trap, whatever the register holds (R27, decision D5). -/
theorem armed_of_lockedByEL3 {s : State} (h : LockedByEL3 s) (f : TrapField) :
    armed f s = (s.cfg.fgtEn2ZeroMeans == .treatedAsZero) := by
  obtain ⟨hel3, hzero⟩ := h
  simp [armed, hel3, hzero]

/-- Where the other conditions of R70 hold, the check is decided by whether the field is armed. -/
theorem writeTrapCheck_of_conditions {s : State} {f : TrapField} (hpresent : Present s)
    (hfeature : fieldFeature s.cfg f = true) (hel2 : s.inp.el2Enabled = true) (hel : s.pstate.el = .el1)
    (haa64 : s.pstate.aarch64 = true) (hprio : s.inp.higherPrio = false) :
    writeTrapCheck f s = if armed f s = true then .trap else .notTrappedHere := by
  obtain ⟨hfgt2, haa64'⟩ := hpresent
  simp [writeTrapCheck_eq, trapArmedHere, Config.present, hfgt2, haa64', hfeature, hel2, hel, haa64, hprio]

theorem el2Enabled_of_trap {f : TrapField} {s : State} (h : writeTrapCheck f s = .trap) :
    s.inp.el2Enabled = true := by
  by_contra hno
  simp [writeTrapCheck_eq, trapArmedHere, hno] at h

/-! ## What an operation does to the register (R10) -/

theorem nvMemStore_hfgwtr2 {v : Word} {s s' : State} (h : nvMemStore v s = .next s') : s'.hfgwtr2 = s.hfgwtr2 := by
  obtain ⟨-, rfl⟩ | ⟨m, -, -, -, rfl⟩ := nvMemStore_next h
  · rfl
  · rfl

theorem exceptionReturn_hfgwtr2 {s s' : State} (h : exceptionReturn s = .next s') : s'.hfgwtr2 = s.hfgwtr2 := by
  obtain ⟨tgt, -, hret⟩ := exceptionReturn_next h
  obtain ⟨-, -, rfl⟩ := returnTo_next hret
  rfl

theorem execMrsHFGWTR2_hfgwtr2 {t : RegNum} {s s' : State} (h : execMrsHFGWTR2 t s = .next s') :
    s'.hfgwtr2 = s.hfgwtr2 := by
  obtain ⟨-, rfl⟩ | ⟨-, rfl⟩ | ⟨-, rfl⟩ | ⟨-, v, -, rfl⟩ | ⟨-, rfl⟩ := execMrsHFGWTR2_next h
  · exact takeException_hfgwtr2 ..
  · exact takeException_hfgwtr2 ..
  · exact takeException_hfgwtr2 ..
  · rfl
  · rfl

/-- The write of the register reaches it on the direct path only (R62, R63). -/
theorem execMsrHFGWTR2_hfgwtr2 {t : RegNum} {s s' : State} (h : execMsrHFGWTR2 t s = .next s') :
    s'.hfgwtr2 = s.hfgwtr2 ∨ accessPath s = .direct := by
  obtain ⟨-, rfl⟩ | ⟨-, rfl⟩ | ⟨-, rfl⟩ | ⟨-, u, hu, rfl⟩ | ⟨hpath, -⟩ := execMsrHFGWTR2_next h
  · exact .inl (takeException_hfgwtr2 ..)
  · exact .inl (takeException_hfgwtr2 ..)
  · exact .inl (takeException_hfgwtr2 ..)
  · obtain ⟨-, hstore⟩ := nvMemWrite_next hu
    exact .inl ((advancePc_hfgwtr2 u).trans (nvMemStore_hfgwtr2 hstore))
  · exact .inr hpath

theorem exec_hfgwtr2_of_trapField {i : Instr} {f : TrapField} {s s' : State} (hf : i.trapField = some f)
    (h : exec i s = .next s') : s'.hfgwtr2 = s.hfgwtr2 := by
  obtain ⟨-, hmsr⟩ | ⟨-, -, hmsrr⟩ := exec_of_trapField s hf
  · obtain ⟨-, rfl⟩ := trappedMsr_next (hmsr ▸ h)
    exact takeException_hfgwtr2 ..
  · obtain ⟨-, rfl⟩ := trappedMsrr_next (hmsrr ▸ h)
    exact takeException_hfgwtr2 ..

/-- An instruction that changes the register is its MSR on the direct path. -/
theorem exec_hfgwtr2_changed {i : Instr} {s s' : State} (h : exec i s = .next s') (hne : s'.hfgwtr2 ≠ s.hfgwtr2) :
    (∃ t, i = .msrHFGWTR2 t) ∧ accessPath s = .direct := by
  obtain ⟨t, rfl⟩ | ⟨t, rfl⟩ | ⟨f, hf⟩ := instr_access_or_trapField i
  · exact absurd (execMrsHFGWTR2_hfgwtr2 h) hne
  · exact ⟨⟨t, rfl⟩, (execMsrHFGWTR2_hfgwtr2 h).resolve_left hne⟩
  · exact absurd (exec_hfgwtr2_of_trapField hf h) hne

/-- A move of the environment that changes the register is a reset. -/
theorem applyMove_hfgwtr2_changed {m : EnvMove} {s s' : State} (h : applyMove m s = .next s')
    (hne : s'.hfgwtr2 ≠ s.hfgwtr2) : ∃ b, m = .warmReset b ∨ m = .coldReset b := by
  obtain ⟨i, -, rfl⟩ | ⟨p, -, rfl⟩ | ⟨t, v, -, rfl⟩ | ⟨a, -, rfl⟩ | ⟨b1, b2, b3, -, rfl⟩ | ⟨v, -, hstore⟩ | ⟨-, rfl⟩
    | ⟨-, hret⟩ | ⟨b, hreset, -⟩ := applyMove_next h
  · exact absurd rfl hne
  · exact absurd rfl hne
  · exact absurd rfl hne
  · exact absurd rfl hne
  · exact absurd rfl hne
  · exact absurd (nvMemStore_hfgwtr2 hstore) hne
  · exact absurd rfl hne
  · exact absurd (exceptionReturn_hfgwtr2 hret) hne
  · exact ⟨b, hreset⟩

/-! ## The parts of the invariant -/

/-- Without EL2 none of the inputs that stand for it can be set (decision D23). -/
theorem haveEL2_of_inputsConsistent {c : Config} {i : Inputs} (h : inputsConsistent c i = true)
    (hi : i.el2Enabled = true ∨ i.nvx ≠ 0#3 ∨ i.tge = true) : c.haveEL2 = true := by
  by_contra hyes
  have hno : c.haveEL2 = false := Bool.eq_false_of_not_eq_true hyes
  simp only [inputsConsistent, hno, Bool.false_or, Bool.and_eq_true, Bool.not_eq_true', beq_iff_eq] at h
  obtain ⟨⟨hel2, hnvx⟩, htge⟩ := h
  simp [hel2, hnvx, htge] at hi

theorem banks_aligned_iff (s : State) :
    (s.exc1.aligned && s.exc2.aligned && s.exc3.aligned) = true ↔ ∀ r, (s.bank r).aligned = true := by
  simp only [Bool.and_eq_true]
  constructor
  · rintro ⟨⟨h1, h2⟩, h3⟩ r
    cases r
    · exact h1
    · exact h2
    · exact h3
  · intro h
    exact ⟨⟨h .el1, h .el2⟩, h .el3⟩

theorem res0Clear_iff (s : State) :
    res0Clear s = true ↔ s.cfg.res0Policy = .stored ∨ s.hfgwtr2 &&& ~~~(wmask s.cfg) = 0#64 := by
  simp [res0Clear]

/-- A direct write that is accepted leaves no RES0 bit set but where the policy stores them (R12). -/
theorem res0Write_clear {c : Config} {v w : Word} (h : res0Write c v = .next w) :
    c.res0Policy = .stored ∨ w &&& ~~~(wmask c) = 0#64 := by
  obtain ⟨-, hclear, rfl⟩ | ⟨-, rfl⟩ | ⟨hstored, -⟩ := res0Write_next h
  · exact .inr hclear
  · exact .inr (and_mask_clear ..)
  · exact .inl hstored

/-- A reset leaves no RES0 bit set but where the policy stores them (R12, R28). -/
theorem resetHfgwtr2_clear (c : Config) (u : Word) :
    c.res0Policy = .stored ∨ resetHfgwtr2 c u &&& ~~~(wmask c) = 0#64 := by
  by_cases hstored : c.res0Policy = .stored
  · exact .inl hstored
  · right
    by_cases hhigh : c.highestEL = .el2
    · rw [resetHfgwtr2_of_highestEL2 hhigh, BitVec.zero_and]
    · rw [resetHfgwtr2_of_draw hhigh, if_neg hstored, and_mask_clear]

/-- A run of bytes off the program text keeps the byte memory apart from it (R48). -/
theorem textApart_writeBytes {s : State} {a : Nat} {bs : List Byte} (h : textApart s)
    (hoff : s.text.listsAny a bs.length = false) : textApart { s with mem := s.mem.writeBytes a bs } := by
  intro r hr
  have hout : r < a ∨ a + bs.length ≤ r := by
    by_contra hin
    have hnone := Memory.read_of_not_listsAny s.text bs.length a (r - a) hoff (by omega)
    rw [show a + (r - a) = r by omega] at hnone
    simp [hnone] at hr
  rw [Memory.read_writeBytes_outside bs s.mem a r hout]
  exact h r hr

theorem resetAddr_aligned {c : Config} (h : c.encodingsOk = true) : c.resetAddr.isMultipleOf 4 = true := by
  simp only [Config.encodingsOk, Config.wf, Bool.and_eq_true] at h
  obtain ⟨⟨⟨-, haddr⟩, -⟩, -⟩ := h
  exact haddr

/-! ## What each update of the state needs to keep the invariant -/

theorem Inv.tick {s : State} (h : Inv s) : Inv s.tick := { h with }

theorem Inv.setX {s : State} (h : Inv s) (t : RegNum) (v : Word) : Inv (s.setX t v) := { h with }

theorem Inv.setPc {s : State} (h : Inv s) {a : Word} (ha : a.isMultipleOf 4 = true) : Inv { s with pc := a } :=
  { h with pc_aligned := ha }

theorem Inv.advancePc {s : State} (h : Inv s) : Inv s.advancePc := h.setPc (add_four_aligned s.pc h.pc_aligned)

theorem Inv.setUnsynced {s : State} (h : Inv s) (b : Bool) : Inv { s with unsynced := b } := { h with }

theorem Inv.setPState {s : State} (h : Inv s) {p : PState} (hp : s.cfg.implements p.el = true) :
    Inv { s with pstate := p } := { h with level_implemented := hp }

theorem Inv.setInputs {s : State} (h : Inv s) {i : Inputs} (hi : inputsConsistent s.cfg i = true) :
    Inv { s with inp := i } := { h with inputs_consistent := hi }

theorem Inv.setEnv {s : State} (h : Inv s) {es : List EnvEvent} (hes : es.all (eventConsistent s.cfg) = true) :
    Inv { s with env := es } := { h with events_consistent := hes }

theorem Inv.setHfgwtr2 {s : State} (h : Inv s) {w : Word}
    (hw : s.cfg.res0Policy = .stored ∨ w &&& ~~~(wmask s.cfg) = 0#64) : Inv { s with hfgwtr2 := w } :=
  { h with res0_clear := (res0Clear_iff _).2 hw }

theorem Inv.setBank {s : State} (h : Inv s) (tgt : TargetEL) {b : ExcBank} (hb : b.aligned = true) :
    Inv (s.setBank tgt b) := by
  have hbanks : ∀ r, ((s.setBank tgt b).bank r).aligned = true := by
    intro r
    by_cases hr : r = tgt
    · rw [hr, bank_setBank]; exact hb
    · rw [bank_setBank_of_ne s tgt r b hr]; exact (banks_aligned_iff s).1 h.banks_aligned r
  cases tgt <;> exact { h with banks_aligned := (banks_aligned_iff _).2 hbanks }

theorem Inv.vbar_elr_aligned {s : State} (h : Inv s) (tgt : TargetEL) :
    (s.bank tgt).vbar.isMultipleOf 4 = true ∧ (s.bank tgt).elr.isMultipleOf 4 = true := by
  have hbank := (banks_aligned_iff s).1 h.banks_aligned tgt
  simpa only [ExcBank.aligned, Bool.and_eq_true] using hbank

/-- An exception entry keeps the invariant where its target level is implemented (R97, R99). -/
theorem Inv.takeException {s : State} (h : Inv s) {tgt : TargetEL} (y : Syndrome)
    (htgt : s.cfg.implements tgt.level = true) : Inv (takeException tgt y s) := by
  obtain ⟨hvbar, -⟩ := h.vbar_elr_aligned tgt
  have hbank : Inv (s.setBank tgt { s.bank tgt with esr := y, elr := s.pc, spsr := s.pstate }) :=
    h.setBank tgt (by simp only [ExcBank.aligned, hvbar, h.pc_aligned, Bool.and_self])
  have hpstate : Inv { s.setBank tgt { s.bank tgt with esr := y, elr := s.pc, spsr := s.pstate } with
      pstate := { s.pstate with el := tgt.level, intMasked := true } } :=
    hbank.setPState (by simpa using htgt)
  exact (hpstate.setPc (vectorAddress_aligned (s.bank tgt).vbar s.pstate tgt hvbar)).setUnsynced false

/-! ## What an instruction's operations need, the invariant gives -/

/-- The target of an UNDEFINED access is implemented: EL2 only where it is the current level or TGE is set (R90). -/
theorem Inv.undefinedTarget_implemented {s : State} (h : Inv s) :
    s.cfg.implements (undefinedTarget s).level = true := by
  have htge : s.inp.tge = true → s.cfg.haveEL2 = true := fun ht =>
    haveEL2_of_inputsConsistent h.inputs_consistent (.inr (.inr ht))
  have hlevel := h.level_implemented
  unfold undefinedTarget
  cases hel : s.pstate.el with
  | el0 => by_cases ht : s.inp.tge = true <;> simp [ht, TargetEL.level, Config.implements, htge]
  | el1 => by_cases ht : s.inp.tge = true <;> simp [ht, TargetEL.level, Config.implements, htge]
  | el2 => rw [hel] at hlevel; exact hlevel
  | el3 => rw [hel] at hlevel; exact hlevel

theorem Inv.raiseUndefined {s : State} (h : Inv s) : Inv (raiseUndefined s) :=
  h.tick.takeException _ h.undefinedTarget_implemented

theorem Inv.accessTrap_el2 {s : State} (h : Inv s) (hpath : accessPath s = .trapEL2) (t : RegNum) (isRead : Bool) :
    Inv (accessTrap .el2 t isRead s) :=
  h.takeException _ (haveEL2_of_inputsConsistent h.inputs_consistent (.inr (.inl (nvx_of_accessPath_trapEL2 hpath))))

theorem Inv.accessTrap_el3 {s : State} (h : Inv s) (hpath : accessPath s = .trapEL3) (t : RegNum) (isRead : Bool) :
    Inv (accessTrap .el3 t isRead s) :=
  h.takeException _ (haveEL3_of_accessPath_trapEL3 hpath)

theorem Inv.haveEL2_of_trap {s : State} (h : Inv s) {f : TrapField} (htrap : writeTrapCheck f s = .trap) :
    s.cfg.haveEL2 = true :=
  haveEL2_of_inputsConsistent h.inputs_consistent (.inl (el2Enabled_of_trap htrap))

theorem Inv.writeHfgwtr2 {v : Word} {s s' : State} (h : Inv s) (hw : writeHfgwtr2 v s = .next s') : Inv s' := by
  obtain ⟨w, hres0, rfl⟩ := writeHfgwtr2_next hw
  exact (h.setHfgwtr2 (res0Write_clear hres0)).setUnsynced true

theorem Inv.nvMemStore {v : Word} {s s' : State} (h : Inv s) (hs : nvMemStore v s = .next s') : Inv s' := by
  obtain ⟨-, rfl⟩ | ⟨m, -, -, hoff, rfl⟩ := nvMemStore_next hs
  · exact { h with }
  · exact { h with
      mem_canonical := Memory.wf_writeBytes _ _ _ h.mem_canonical
      text_apart := textApart_writeBytes h.text_apart (by rw [length_nvToBytes]; exact hoff) }

theorem Inv.exceptionReturn {s s' : State} (h : Inv s) (hret : exceptionReturn s = .next s') : Inv s' := by
  obtain ⟨tgt, -, hto⟩ := exceptionReturn_next hret
  obtain ⟨-, himpl, rfl⟩ := returnTo_next hto
  obtain ⟨-, helr⟩ := h.vbar_elr_aligned tgt
  exact ((h.setPState himpl).setPc helr).setUnsynced false

/-- A reset that leaves consistent values keeps the invariant (R28, R111, decision D23). -/
theorem Inv.reset {s : State} {b : Boot} (h : Inv s) (hb : bootConsistent s.cfg b = true) :
    Inv (bootState s.cfg b s.text s.env s.free) := by
  simp only [bootConsistent, Bool.and_eq_true] at hb
  obtain ⟨⟨⟨⟨hlevel, hinputs⟩, h1⟩, h2⟩, h3⟩ := hb
  exact {
    cfg_ok := h.cfg_ok
    level_implemented := hlevel
    inputs_consistent := hinputs
    res0_clear := (res0Clear_iff _).2 (resetHfgwtr2_clear s.cfg b.draw)
    pc_aligned := resetAddr_aligned h.cfg_ok
    banks_aligned := by simp [bootState, h1, h2, h3]
    text_canonical := h.text_canonical
    mem_canonical := rfl
    text_apart := fun _ _ => rfl
    events_consistent := h.events_consistent }

/-! ## Instructions, moves and steps keep the invariant -/

theorem Inv.execMrsHFGWTR2 {t : RegNum} {s s' : State} (h : Inv s) (hx : execMrsHFGWTR2 t s = .next s') : Inv s' := by
  obtain ⟨-, rfl⟩ | ⟨hpath, rfl⟩ | ⟨hpath, rfl⟩ | ⟨-, v, -, rfl⟩ | ⟨-, rfl⟩ := execMrsHFGWTR2_next hx
  · exact h.raiseUndefined
  · exact h.accessTrap_el2 hpath t true
  · exact h.accessTrap_el3 hpath t true
  · exact (h.setX t v).advancePc
  · exact (h.setX t _).advancePc

theorem Inv.execMsrHFGWTR2 {t : RegNum} {s s' : State} (h : Inv s) (hx : execMsrHFGWTR2 t s = .next s') : Inv s' := by
  obtain ⟨-, rfl⟩ | ⟨hpath, rfl⟩ | ⟨hpath, rfl⟩ | ⟨-, u, hu, rfl⟩ | ⟨-, u, hu, rfl⟩ := execMsrHFGWTR2_next hx
  · exact h.raiseUndefined
  · exact h.accessTrap_el2 hpath t false
  · exact h.accessTrap_el3 hpath t false
  · obtain ⟨-, hstore⟩ := nvMemWrite_next hu
    exact (h.nvMemStore hstore).advancePc
  · exact (h.writeHfgwtr2 hu).advancePc

theorem Inv.exec_of_trapField {i : Instr} {f : TrapField} {s s' : State} (h : Inv s) (hf : i.trapField = some f)
    (hx : exec i s = .next s') : Inv s' := by
  have hel2 : s.cfg.haveEL2 = true := h.haveEL2_of_trap ((exec_next_iff_trap s hf).1 ⟨s', hx⟩)
  obtain ⟨-, hmsr⟩ | ⟨-, -, hmsrr⟩ := Machine.exec_of_trapField s hf
  · obtain ⟨-, rfl⟩ := trappedMsr_next (hmsr ▸ hx)
    exact h.takeException _ hel2
  · obtain ⟨-, rfl⟩ := trappedMsrr_next (hmsrr ▸ hx)
    exact h.tick.takeException _ hel2

theorem Inv.exec {i : Instr} {s s' : State} (h : Inv s) (hx : exec i s = .next s') : Inv s' := by
  obtain ⟨t, rfl⟩ | ⟨t, rfl⟩ | ⟨f, hf⟩ := instr_access_or_trapField i
  · exact h.execMrsHFGWTR2 hx
  · exact h.execMsrHFGWTR2 hx
  · exact h.exec_of_trapField hf hx

/-- A move of the environment that keeps the premises of decision D23 keeps the invariant. -/
theorem Inv.applyMove {m : EnvMove} {s s' : State} (h : Inv s) (hm : moveConsistent s.cfg m = true)
    (hx : applyMove m s = .next s') : Inv s' := by
  obtain ⟨i, rfl, rfl⟩ | ⟨p, rfl, rfl⟩ | ⟨t, v, -, rfl⟩ | ⟨a, rfl, rfl⟩ | ⟨b1, b2, b3, rfl, rfl⟩ | ⟨v, -, hstore⟩
    | ⟨-, rfl⟩ | ⟨-, hret⟩ | ⟨b, rfl | rfl, rfl⟩ := applyMove_next hx
  · exact h.setInputs hm
  · exact h.setPState hm
  · exact h.setX t v
  · exact h.setPc hm
  · exact { h with banks_aligned := hm }
  · exact h.nvMemStore hstore
  · exact h.setUnsynced false
  · exact h.exceptionReturn hret
  · exact h.reset hm
  · exact h.reset hm

/-! ## The obligations -/

/-- Settles O38: the state past the event meets the invariant, the event taken is a consistent one, and each move and
instruction keeps the invariant. -/
theorem stepKeepsInvariant : Obligations.StepKeepsInvariant := by
  intro s s' h hstep
  have hevents := h.events_consistent
  obtain ⟨m, es, henv, hmove⟩ | ⟨-, -, bs, i, rest, -, -, hexec⟩ := step_next hstep
  · rw [henv, List.all_cons, Bool.and_eq_true] at hevents
    obtain ⟨hm, hes⟩ := hevents
    exact (h.setEnv hes).applyMove hm hmove
  · have htail : s.env.tail.all (eventConsistent s.cfg) = true :=
      List.all_eq_true.2 fun e he => List.all_eq_true.1 hevents e (List.mem_of_mem_tail he)
    exact (h.setEnv htail).exec hexec

/-- Settles O41: of the moves only a reset changes the register, and of the instructions only its MSR on the direct path,
which is a path of EL2 and EL3. -/
theorem onlyDirectWriteOrResetChanges : Obligations.OnlyDirectWriteOrResetChanges := by
  intro s s' hstep hne
  obtain ⟨m, es, henv, hmove⟩ | ⟨hnext, -, bs, i, rest, hfetch, hdecode, hexec⟩ := step_next hstep
  · left
    obtain ⟨b, rfl | rfl⟩ := applyMove_hfgwtr2_changed hmove hne
    · exact ⟨b, es, .inl henv⟩
    · exact ⟨b, es, .inr henv⟩
  · right
    obtain ⟨⟨t, rfl⟩, hpath⟩ := exec_hfgwtr2_changed hexec hne
    have hlevel : s.pstate.el = .el2 ∨ s.pstate.el = .el3 := level_of_accessPath_direct hpath
    exact ⟨hnext, hlevel, bs, t, rest, hfetch, hdecode⟩

/-- Settles O25: under the ignore clause the field is armed by the parameter alone, and R70's other conditions are the
hypotheses. -/
theorem ignoredFieldsByParameter : Obligations.IgnoredFieldsByParameter := by
  intro s t p hp hpresent hfeature hel2 hel haa64 hprio hlocked v
  obtain ⟨f, hf, -, hfeat⟩ := trapField_of_mem_trappedWrites hp
  rw [hfeat] at hfeature
  have hcheck : writeTrapCheck f { s with hfgwtr2 := v }
      = if armed f { s with hfgwtr2 := v } = true then .trap else .notTrappedHere :=
    writeTrapCheck_of_conditions hpresent hfeature hel2 hel haa64 hprio
  have harmed : armed f { s with hfgwtr2 := v } = (s.cfg.fgtEn2ZeroMeans == .treatedAsZero) :=
    armed_of_lockedByEL3 (s := { s with hfgwtr2 := v }) hlocked f
  rw [harmed] at hcheck
  constructor
  · intro hzero
    exact (exec_next_iff_trap _ hf).2 (by rw [hcheck, hzero]; rfl)
  · intro hnone
    exact exec_of_notTrappedHere hf (by rw [hcheck, hnone]; rfl)

/-- Settles O33, by the bits of the three masks that features gate. -/
theorem wmaskBits : Obligations.WmaskBits := by
  intro c k
  rw [getLsbD_wmask]
  simp only [Bool.and_eq_true, Bool.or_eq_true, decide_eq_true_eq]
  tauto

/-- Settles O35: the reset is one step to the boot state, whose register is `resetHfgwtr2`. -/
theorem resetLeavesRegister : Obligations.ResetLeavesRegister := by
  intro s b m es hm henv
  refine ⟨_, step_of_reset hm henv, rfl, rfl, rfl, rfl, ?_, ?_⟩
  · intro hel2 hel3
    exact resetHfgwtr2_of_highestEL2 ((highestEL_eq_el2_iff s.cfg).2 ⟨hel2, hel3⟩) b.draw
  · intro hhigh k
    have hdraw : (bootState s.cfg b s.text es s.free).hfgwtr2
        = if s.cfg.res0Policy = .stored then b.draw else b.draw &&& wmask s.cfg :=
      resetHfgwtr2_of_draw (mt (highestEL_eq_el2_iff s.cfg).1 hhigh) b.draw
    rw [hdraw]
    by_cases hstored : s.cfg.res0Policy = .stored
    · simp [hstored]
    · simp [hstored]

/-- Settles O26: both writes are trapped by the check of one field, and the entry records the class of each. -/
theorem rcwsmaskWritesArmedTogether : Obligations.RcwsmaskWritesArmedTogether := by
  intro s t u
  refine ⟨?_, ?_, ?_⟩
  · exact (exec_next_iff_trap (f := .nRCWSMASK) s rfl).trans (exec_next_iff_trap (f := .nRCWSMASK) s rfl).symm
  · intro s1 h
    obtain ⟨-, rfl⟩ := trappedMsr_next (f := .nRCWSMASK) h
    rfl
  · intro s2 h
    obtain ⟨-, rfl⟩ := trappedMsrr_next (f := .nRCWSMASK) h
    rfl

/-- Settles O34: at EL3 both accesses are direct, and without EL2 no bit of the register is implemented. -/
theorem withoutEL2RegisterIsRes0 : Obligations.WithoutEL2RegisterIsRes0 := by
  intro s t hpresent hel2 hel
  have hpath : accessPath s = .direct := accessPath_of_el3 hpresent hel
  have hmask : wmask s.cfg = 0#64 := wmask_of_noEL2 hel2
  refine ⟨?_, ?_, ?_⟩
  · intro hpolicy
    refine ⟨_, execMrs_of_direct hpath t, ?_⟩
    rw [x_advancePc, x_setX, res0Read_of_not_stored hpolicy, hmask, BitVec.and_zero]
    by_cases ht : t = 31#5
    · simp [ht]
    · simp [ht]
  · intro hpolicy
    exact ⟨_, execMsr_of_direct_accepted (w := 0#64) hpath (by simp [res0Write, hpolicy, hmask]), rfl⟩
  · intro hpolicy
    split
    · next hzero =>
      exact ⟨_, execMsr_of_direct_accepted (w := 0#64) hpath (by simp [res0Write, hpolicy, hzero]), rfl⟩
    · next hone =>
      have hall : s.x t &&& ~~~(wmask s.cfg) = s.x t := by rw [hmask, BitVec.not_zero, BitVec.and_allOnes]
      exact execMsr_of_direct_refused hpath (by simp [res0Write, hpolicy, hall, hone])

/-- Settles O36: the boot values are those of the reset state itself, with a draw of 0 that plays no part. -/
theorem resetStateIsABoot : Obligations.ResetStateIsABoot :=
  ⟨⟨⟨0#64, State.reset.gpr, State.reset.pstate, Inputs.reset, ExcBank.reset, ExcBank.reset, ExcBank.reset⟩, rfl⟩,
    rfl, rfl, rfl, rfl, rfl⟩

/-- Settles O37: the conditions on the reset state's values are finite checks, and it has no byte of program text. -/
theorem resetMeetsInvariant : Obligations.ResetMeetsInvariant where
  cfg_ok := by decide
  level_implemented := rfl
  inputs_consistent := rfl
  res0_clear := rfl
  pc_aligned := rfl
  banks_aligned := rfl
  text_canonical := rfl
  mem_canonical := rfl
  text_apart := fun _ _ => rfl
  events_consistent := rfl

end Sys2Proof.Machine

/-! # Memory: the stops of the NVMem access, the fetch from the program text, and when a written value governs
(20_memory.md)

Each access of memory gets a lemma per answer it stops with; an instruction and a step then pass that answer on. A value
written on the direct path keeps its bits where `WMASK` has them, and those bits are what arms the traps. -/

namespace Sys2Proof.Machine

/-! ## The path of an access (R60) -/

/-- Branches D2 and D3 of R60. -/
theorem accessPath_of_directCondition {s : State} (h : DirectCondition s) : accessPath s = .direct := by
  obtain ⟨hpresent, hel3 | ⟨hel2, hunlocked⟩⟩ := h
  · exact accessPath_of_el3 hpresent hel3
  · obtain ⟨hfgt2, haa64⟩ := hpresent
    have hfree : (s.cfg.haveEL3 && s.inp.fgtEn2 == 0#1) = false := by simpa [LockedByEL3] using hunlocked
    simp only [Bool.and_eq_false_iff] at hfree
    obtain hnoEL3 | hone := hfree
    · simp [accessPath, Config.present, hfgt2, haa64, hel2, hnoEL3]
    · simp [accessPath, Config.present, hfgt2, haa64, hel2, hone]

/-- Branch N of R60. -/
theorem accessPath_of_nvMemCondition {s : State} (h : NvMemCondition s) : accessPath s = .nvMem := by
  obtain ⟨⟨hfgt2, haa64⟩, hel1, hnvx | hnvx⟩ := h
  · simp [accessPath, Config.present, hfgt2, haa64, hel1, hnvx, nvxMatches1x1]
  · simp [accessPath, Config.present, hfgt2, haa64, hel1, hnvx, nvxMatches1x1]

/-! ## Runs of bytes -/

/-- A run with a byte that has no value has none. -/
theorem State.bytesAt_eq_none {s : State} {a n i : Nat} (hi : i < n) (h : s.byteAt (a + i) = none) :
    s.bytesAt a n = none := by
  induction n generalizing a i with
  | zero => omega
  | succ n ih =>
    cases i with
    | zero => simp [State.bytesAt, show s.byteAt a = none from h]
    | succ j =>
      have hrest : s.bytesAt (a + 1) n = none :=
        ih (i := j) (by omega) (by rw [show a + 1 + j = a + (j + 1) by omega]; exact h)
      simp [State.bytesAt, hrest]

/-- A run with a listed byte lists some. -/
theorem Memory.listsAny_of_read {m : Memory} {a n i : Nat} (hi : i < n) (h : (m.read (a + i)).isSome) :
    m.listsAny a n = true := by
  by_contra hnone
  rw [Memory.read_of_not_listsAny m n a i (Bool.eq_false_of_not_eq_true hnone) hi] at h
  cases h

/-! ## Where the NVMem access stops (R33, R41, R43, R48) -/

theorem nvMap_wf_iff (m : NvMap) : m.wf = true ↔ m.base.toNat % 8 = 0 := by simp [NvMap.wf, Word.isMultipleOf]

theorem nvMemRead_of_selectedFault {s : State} (h : s.inp.nvMemFault = true) : nvMemRead s = .fault .nvMemFault := by
  simp [nvMemRead, h]

theorem nvMemRead_of_unwrittenCell {s : State} (hfault : s.inp.nvMemFault = false) (hmap : s.cfg.nvMap = none)
    (hcell : s.nvCell = none) : nvMemRead s = .fault .nvMemUnwritten := by
  simp [nvMemRead, hfault, hmap, hcell]

theorem nvMemRead_of_unwrittenByte {s : State} {m : NvMap} {i : Nat} (hfault : s.inp.nvMemFault = false)
    (hmap : s.cfg.nvMap = some m) (hwf : m.wf = true) (hi : i < 8) (hbyte : s.byteAt (nvAddress m + i) = none) :
    nvMemRead s = .fault .nvMemUnwritten := by
  simp [nvMemRead, hfault, hmap, hwf, State.bytesAt_eq_none hi hbyte]

theorem nvMemRead_of_misaligned {s : State} {m : NvMap} (hfault : s.inp.nvMemFault = false)
    (hmap : s.cfg.nvMap = some m) (hwf : m.wf = false) : nvMemRead s = .refused .nvBaseMisaligned := by
  simp [nvMemRead, hfault, hmap, hwf]

theorem nvMemWrite_of_selectedFault {s : State} (h : s.inp.nvMemFault = true) (v : Word) :
    nvMemWrite v s = .fault .nvMemFault := by
  simp [nvMemWrite, h]

theorem nvMemWrite_of_misaligned {s : State} {m : NvMap} (hfault : s.inp.nvMemFault = false)
    (hmap : s.cfg.nvMap = some m) (hwf : m.wf = false) (v : Word) : nvMemWrite v s = .refused .nvBaseMisaligned := by
  simp [nvMemWrite, nvMemStore, hfault, hmap, hwf]

theorem nvMemWrite_of_programText {s : State} {m : NvMap} {i : Nat} (hfault : s.inp.nvMemFault = false)
    (hmap : s.cfg.nvMap = some m) (hwf : m.wf = true) (hi : i < 8) (htext : (s.text.read (nvAddress m + i)).isSome)
    (v : Word) : nvMemWrite v s = .refused .selfModifyingCode := by
  simp [nvMemWrite, nvMemStore, hfault, hmap, hwf, Memory.listsAny_of_read hi htext]

/-! ## The two accesses pass on the stop of the NVMem access (R61, R62) -/

theorem execMrs_of_nvMem_fault {s : State} {r : Fault} (h : accessPath s = .nvMem) (hr : nvMemRead s = .fault r)
    (t : RegNum) : exec (.mrsHFGWTR2 t) s = .fault r := by
  simp only [exec, execMrsHFGWTR2, h, hr]

theorem execMrs_of_nvMem_refused {s : State} {r : Refusal} (h : accessPath s = .nvMem) (hr : nvMemRead s = .refused r)
    (t : RegNum) : exec (.mrsHFGWTR2 t) s = .refused r := by
  simp only [exec, execMrsHFGWTR2, h, hr]

theorem execMsr_of_nvMem_fault {s : State} {t : RegNum} {r : Fault} (h : accessPath s = .nvMem)
    (hr : nvMemWrite (s.x t) s = .fault r) : exec (.msrHFGWTR2 t) s = .fault r := by
  simp only [exec, execMsrHFGWTR2, h, hr]

theorem execMsr_of_nvMem_refused {s : State} {t : RegNum} {r : Refusal} (h : accessPath s = .nvMem)
    (hr : nvMemWrite (s.x t) s = .refused r) : exec (.msrHFGWTR2 t) s = .refused r := by
  simp only [exec, execMsrHFGWTR2, h, hr]

/-! ## The fetch and the instruction step (R48, R51) -/

theorem isMultipleOf_four_iff (w : Word) : w.isMultipleOf 4 = true ↔ w.toNat % 4 = 0 := by simp [Word.isMultipleOf]

theorem fetch_of_bytes {s : State} {b0 b1 b2 b3 : Byte} (hpc : s.pc.toNat % 4 = 0)
    (h0 : s.text.read s.pc.toNat = some b0) (h1 : s.text.read (s.pc.toNat + 1) = some b1)
    (h2 : s.text.read (s.pc.toNat + 2) = some b2) (h3 : s.text.read (s.pc.toNat + 3) = some b3) :
    fetch s = .next [b0, b1, b2, b3] := by
  simp [fetch, (isMultipleOf_four_iff s.pc).2 hpc, h0, h1, h2, h3]

theorem fetch_of_misaligned {s : State} (hpc : s.pc.toNat % 4 ≠ 0) : fetch s = .fault .fetchMisaligned := by
  simp [fetch, mt (isMultipleOf_four_iff s.pc).1 hpc]

/-- An aligned fetch needs each of the four bytes of the word in the program text. -/
theorem fetch_of_missingByte {s : State} {i : Nat} (hpc : s.pc.toNat % 4 = 0) (hi : i < 4)
    (hbyte : s.text.read (s.pc.toNat + i) = none) : fetch s = .fault .fetchNoText := by
  rw [fetch, if_pos ((isMultipleOf_four_iff s.pc).2 hpc)]
  split
  · next b0 b1 b2 b3 h0 h1 h2 h3 =>
    obtain rfl | rfl | rfl | rfl : i = 0 ∨ i = 1 ∨ i = 2 ∨ i = 3 := by omega
    · simp [h0] at hbyte
    · simp [h1] at hbyte
    · simp [h2] at hbyte
    · simp [h3] at hbyte
  · rfl

theorem runInstr_of_decoded {s : State} {bs rest : List Byte} {i : Instr} (haa64 : s.pstate.aarch64 = true)
    (hfetch : fetch s = .next bs) (hdecode : decode s.cfg bs = .ok (i, rest)) : runInstr s = exec i s := by
  simp only [runInstr, haa64, if_true, hfetch, hdecode]

theorem runInstr_of_fetch_fault {s : State} {r : Fault} (haa64 : s.pstate.aarch64 = true)
    (hfetch : fetch s = .fault r) : runInstr s = .fault r := by
  simp only [runInstr, haa64, if_true, hfetch]

/-- The state an instruction step runs in differs from the state before it in the schedule alone, which neither the fetch
nor the decoder reads. -/
theorem InstructionNext.eq_env_tail {s u : State} (h : InstructionNext s u) : u = { s with env := s.env.tail } := by
  obtain ⟨hend, rfl⟩ | ⟨es, hnext, rfl⟩ := h
  · rw [hend, List.tail_nil, ← hend]
  · rw [hnext, List.tail_cons]

theorem InstructionNext.fetch_eq {s u : State} (h : InstructionNext s u) : fetch u = fetch s := by
  rw [h.eq_env_tail]
  rfl

theorem InstructionNext.cfg_eq {s u : State} (h : InstructionNext s u) : u.cfg = s.cfg := by rw [h.eq_env_tail]

/-- An instruction step stops where its fetch does. -/
theorem step_of_fetch_fault {s u : State} {r : Fault} (h : InstructionNext s u) (haa64 : s.pstate.aarch64 = true)
    (hfetch : fetch s = .fault r) : step s = .fault r := by
  rw [step_of_instructionNext h]
  exact runInstr_of_fetch_fault (h.pstate_eq ▸ haa64) (h.fetch_eq.trans hfetch)

/-! ## What a direct write stores governs the traps (R12, R47) -/

/-- The bit of a field is implemented where its feature and EL2 are (R11, R29). -/
theorem getLsbD_wmask_fieldBit {c : Config} {f : TrapField} (hel2 : c.haveEL2 = true)
    (hfeature : fieldFeature c f = true) : (wmask c).getLsbD (fieldBit f) = true := by
  rw [getLsbD_wmask, hel2]
  cases f <;> simp_all [fieldFeature, fieldBit]

/-- Under every policy, an accepted direct write stores the bits written that `WMASK` has (R12, R62). -/
theorem getLsbD_of_res0Write {c : Config} {v w : Word} {k : Nat} (h : res0Write c v = .next w)
    (hk : (wmask c).getLsbD k = true) : w.getLsbD k = v.getLsbD k := by
  obtain ⟨-, -, rfl⟩ | ⟨-, rfl⟩ | ⟨-, rfl⟩ := res0Write_next h
  · rfl
  · rw [BitVec.getLsbD_and, hk, Bool.and_true]
  · rfl

/-- The state a completed direct write leaves (R62). -/
theorem execMsr_next_of_direct {s s' : State} {t : RegNum} (hpath : accessPath s = .direct)
    (h : exec (.msrHFGWTR2 t) s = .next s') :
    ∃ w, res0Write s.cfg (s.x t) = .next w ∧ s' = State.advancePc { s with hfgwtr2 := w, unsynced := true } := by
  obtain ⟨hother, -⟩ | ⟨hother, -⟩ | ⟨hother, -⟩ | ⟨hother, -⟩ | ⟨-, u, hu, rfl⟩ := execMsrHFGWTR2_next h
  · simp [hpath] at hother
  · simp [hpath] at hother
  · simp [hpath] at hother
  · simp [hpath] at hother
  · obtain ⟨w, hw, rfl⟩ := writeHfgwtr2_next hu
    exact ⟨w, hw, rfl⟩

/-- Where no field is ignored, the stored bit alone decides whether the field is armed (R27). -/
theorem armed_of_not_lockedByEL3 {s : State} (h : ¬ LockedByEL3 s) (f : TrapField) :
    armed f s = !s.hfgwtr2.getLsbD (fieldBit f) := by
  have hfree : ¬ (s.cfg.haveEL3 && s.inp.fgtEn2 == 0#1) = true := by simpa [LockedByEL3] using h
  rw [armed, if_neg hfree]

/-! ## The obligations -/

/-- Settles O28: the write stores the bit it writes at every implemented field, and with R70's other conditions given the
stored bit decides the trap. `SynchronizedAfterWrite` is not needed: the model's traps read the register as it stands. -/
theorem synchronizedWriteGoverns : Obligations.SynchronizedWriteGoverns := by
  intro s s1 s2 t u p hp hdirect hwrite hcfg hreg _ hel2 hfeature hel2Enabled hel1 haa64 hprio hunlocked
  obtain ⟨f, hf, hbit, hfeat⟩ := trapField_of_mem_trappedWrites hp
  obtain ⟨w, hw, rfl⟩ := execMsr_next_of_direct (accessPath_of_directCondition hdirect) hwrite
  rw [hfeat] at hfeature
  have hpresent : Present s2 := by rw [Present, hcfg]; exact hdirect.1
  have hstored : s2.hfgwtr2.getLsbD (fieldBit f) = (s.x t).getLsbD (fieldBit f) := by
    rw [hreg]
    exact getLsbD_of_res0Write hw (hcfg ▸ getLsbD_wmask_fieldBit hel2 hfeature)
  rw [exec_next_iff_trap s2 hf, writeTrapCheck_of_conditions hpresent hfeature hel2Enabled hel1 haa64 hprio,
    armed_of_not_lockedByEL3 hunlocked, hstored, hbit]
  simp

/-- Settles O15: on the NVMem path each access passes on the stop of its read or write behind NVMem. -/
theorem nvMemAccessStops : Obligations.NvMemAccessStops := by
  intro s t hcond
  have hpath : accessPath s = .nvMem := accessPath_of_nvMemCondition hcond
  refine ⟨?_, ?_, ?_, ?_, ?_⟩
  · intro hfault
    exact ⟨execMrs_of_nvMem_fault hpath (nvMemRead_of_selectedFault hfault) t,
      execMsr_of_nvMem_fault hpath (nvMemWrite_of_selectedFault hfault _)⟩
  · intro hfault hmap hcell
    exact execMrs_of_nvMem_fault hpath (nvMemRead_of_unwrittenCell hfault hmap hcell) t
  · intro m i hfault hmap hbase hi hbyte
    exact execMrs_of_nvMem_fault hpath (nvMemRead_of_unwrittenByte hfault hmap ((nvMap_wf_iff m).2 hbase) hi hbyte) t
  · intro m hfault hmap hbase
    have hwf : m.wf = false := Bool.eq_false_of_not_eq_true (mt (nvMap_wf_iff m).1 hbase)
    exact ⟨execMrs_of_nvMem_refused hpath (nvMemRead_of_misaligned hfault hmap hwf) t,
      execMsr_of_nvMem_refused hpath (nvMemWrite_of_misaligned hfault hmap hwf _)⟩
  · intro m i hfault hmap hbase hi htext
    exact execMsr_of_nvMem_refused hpath (nvMemWrite_of_programText hfault hmap ((nvMap_wf_iff m).2 hbase) hi htext _)

/-- Settles O42: the fetch and the decoder answer alike before and past the step's event, so the step is the `exec` of
what they give. -/
theorem stepRunsDecoded : Obligations.StepRunsDecoded := by
  intro s u b0 b1 b2 b3 i rest hnext haa64 hpc h0 h1 h2 h3 hdecode
  have hfetch : fetch u = .next [b0, b1, b2, b3] := hnext.fetch_eq.trans (fetch_of_bytes hpc h0 h1 h2 h3)
  rw [step_of_instructionNext hnext]
  exact runInstr_of_decoded (hnext.pstate_eq ▸ haa64) hfetch (hnext.cfg_eq ▸ hdecode)

/-- Settles O45, by the two stops of the fetch. -/
theorem fetchStops : Obligations.FetchStops := by
  intro s u hnext haa64
  constructor
  · intro hpc
    exact step_of_fetch_fault hnext haa64 (fetch_of_misaligned hpc)
  · intro i hpc hi hbyte
    exact step_of_fetch_fault hnext haa64 (fetch_of_missingByte hpc hi hbyte)

end Sys2Proof.Machine

/-! # The decoder and the encoder (30_encoding.md)

Under a configuration whose encodings are in order, the table finds an instruction for a word exactly where the word is
the instruction's own (`findRow_eq_some_iff`): the word a pattern in order makes with an operand is of that pattern and
carries that operand, every word of the pattern is made so, and no word is of two patterns. The round trips of bytes, and
that the two accesses have different words, follow from it. -/

namespace Sys2Proof

open Laws

/-! ## Bytes and words (R42, R51) -/

theorem bytesOfWord_wordOfBytes (b0 b1 b2 b3 : Byte) : bytesOfWord (wordOfBytes b0 b1 b2 b3) = [b0, b1, b2, b3] := by
  simp only [bytesOfWord, wordOfBytes, List.cons.injEq, and_true]
  refine ⟨?_, ?_, ?_, ?_⟩
  · rw [BitVec.extractLsb'_append_eq_right]
  · rw [BitVec.extractLsb'_append_eq_of_le (by omega), BitVec.extractLsb'_append_eq_right]
  · rw [BitVec.extractLsb'_append_eq_of_le (by omega), BitVec.extractLsb'_append_eq_of_le (by omega),
      BitVec.extractLsb'_append_eq_right]
  · rw [BitVec.extractLsb'_append_eq_of_le (by omega), BitVec.extractLsb'_append_eq_of_le (by omega),
      BitVec.extractLsb'_append_eq_left]

/-- The bytes of a word, joined again, are the word. -/
theorem wordOfBytes_extractLsb' (w : InstrWord) :
    wordOfBytes (w.extractLsb' 0 8) (w.extractLsb' 8 8) (w.extractLsb' 16 8) (w.extractLsb' 24 8) = w := by
  rw [wordOfBytes, BitVec.extractLsb'_append_extractLsb'_eq_extractLsb' (by omega),
    BitVec.extractLsb'_append_extractLsb'_eq_extractLsb' (by omega),
    BitVec.extractLsb'_append_extractLsb'_eq_extractLsb' (by omega)]
  exact BitVec.extractLsb'_eq_self

theorem decode_cons (c : Config) (b0 b1 b2 b3 : Byte) (rest : List Byte) :
    decode c (b0 :: b1 :: b2 :: b3 :: rest) = (decodeWord c (wordOfBytes b0 b1 b2 b3)).map (·, rest) := by
  rw [decode]
  cases decodeWord c (wordOfBytes b0 b1 b2 b3) with
  | ok i => rfl
  | error r => rfl

/-- The decoder reads the word that the bytes begin with and leaves the bytes after it. -/
theorem decode_bytesOfWord_append (c : Config) (w : InstrWord) (rest : List Byte) :
    decode c (bytesOfWord w ++ rest) = (decodeWord c w).map (·, rest) := by
  rw [show bytesOfWord w ++ rest = _ :: _ :: _ :: _ :: rest from rfl, decode_cons, wordOfBytes_extractLsb']

theorem decodeWord_eq_ok_iff {c : Config} {w : InstrWord} {i : Instr} :
    decodeWord c w = .ok i ↔ findRow c w = some i ∧ i.wf = true := by
  rw [decodeWord]
  cases findRow c w with
  | none => simp
  | some j => cases hwf : j.wf <;> simpa [hwf] using fun h : j = i => h ▸ hwf

/-- Bytes that decode begin with a word that decodes. -/
theorem decode_ok {c : Config} {bs rest : List Byte} {i : Instr} (h : decode c bs = .ok (i, rest)) :
    ∃ w, decodeWord c w = .ok i ∧ bs = bytesOfWord w ++ rest := by
  match bs, h with
  | b0 :: b1 :: b2 :: b3 :: tail, h =>
    rw [decode_cons] at h
    cases hword : decodeWord c (wordOfBytes b0 b1 b2 b3) with
    | error r => simp [hword, Except.map] at h
    | ok j =>
      obtain ⟨rfl, rfl⟩ : j = i ∧ tail = rest := by simpa [hword, Except.map] using h
      exact ⟨_, hword, by rw [bytesOfWord_wordOfBytes]; rfl⟩

/-! ## The words of one pattern (R51) -/

/-- What a pattern in order fixes: `Rt` lies in the word, every other bit is in the mask. -/
theorem Pattern.wf_iff (p : Pattern) :
    p.wf = true ↔ p.rtLsb ≤ 27 ∧ p.mask = rtMask p.rtLsb ∧ p.fixed &&& p.mask = p.fixed := by
  simp [Pattern.wf, and_assoc]

theorem Pattern.matchesWord_iff (p : Pattern) (w : InstrWord) : p.matchesWord w = true ↔ w &&& p.mask = p.fixed := by
  simp [Pattern.matchesWord]

/-- An operand stands where the mask of its pattern has no bit. -/
theorem operand_and_rtMask (t : RegNum) (k : Nat) : (t.setWidth 32 <<< k) &&& rtMask k = 0#32 := by
  apply BitVec.eq_of_getLsbD_eq
  intro j hj
  rw [BitVec.getLsbD_and, getLsbD_rtMask k j hj, BitVec.getLsbD_shiftLeft, BitVec.getLsbD_setWidth, BitVec.getLsbD_zero]
  by_cases hrt : k ≤ j ∧ j < k + 5
  · simp [hrt]
  · by_cases hlow : j < k
    · simp [hlow]
    · simp [BitVec.getLsbD_of_ge t (j - k) (by omega)]

/-- The word made with an operand is of the pattern. -/
theorem Pattern.matchesWord_wordOf {p : Pattern} (h : p.wf = true) (t : RegNum) : p.matchesWord (p.wordOf t) = true := by
  obtain ⟨-, hmask, hfixed⟩ := p.wf_iff.1 h
  rw [Pattern.matchesWord_iff, Pattern.wordOf, BitVec.and_comm, BitVec.and_or_distrib_left, BitVec.and_comm, hfixed,
    BitVec.and_comm, hmask, operand_and_rtMask, BitVec.or_zero]

/-- A word of the pattern is the one made with the operand it carries. -/
theorem Pattern.wordOf_rtOf {p : Pattern} {w : InstrWord} (h : p.wf = true) (hw : p.matchesWord w = true) :
    p.wordOf (p.rtOf w) = w := by
  obtain ⟨-, hmask, -⟩ := p.wf_iff.1 h
  apply BitVec.eq_of_getLsbD_eq
  intro j hj
  rw [Pattern.wordOf, ← p.matchesWord_iff w |>.1 hw, hmask, BitVec.getLsbD_or, BitVec.getLsbD_and,
    getLsbD_rtMask _ j hj, Pattern.rtOf, BitVec.getLsbD_shiftLeft, BitVec.getLsbD_setWidth, BitVec.getLsbD_setWidth,
    BitVec.getLsbD_ushiftRight]
  by_cases hrt : p.rtLsb ≤ j ∧ j < p.rtLsb + 5
  · obtain ⟨hle, hlt⟩ := hrt
    simp [hle, hlt, hj, show j - p.rtLsb < 32 by omega, show j - p.rtLsb < 5 by omega,
      show p.rtLsb + (j - p.rtLsb) = j by omega]
  · by_cases hlow : j < p.rtLsb
    · simp [hlow]
    · simp [hrt, show ¬ j - p.rtLsb < 5 by omega]

/-- No word is of two disjoint patterns. -/
theorem Pattern.not_matchesWord_of_disjoint {p q : Pattern} {w : InstrWord} (h : p.disjoint q = true)
    (hq : q.matchesWord w = true) : p.matchesWord w = false := by
  by_contra hp
  rw [Bool.not_eq_false, Pattern.matchesWord_iff] at hp
  rw [Pattern.matchesWord_iff] at hq
  have hagree : (p.fixed ^^^ q.fixed) &&& (p.mask &&& q.mask) = 0#32 := by
    apply BitVec.eq_of_getLsbD_eq
    intro j _
    simp only [← hp, ← hq, BitVec.getLsbD_and, BitVec.getLsbD_xor, BitVec.getLsbD_zero]
    cases p.mask.getLsbD j <;> cases q.mask.getLsbD j <;> simp
  simp [Pattern.disjoint, hagree] at h

/-! ## The rows of the table (R58) -/

/-- Every instruction is one of the rows, with its operand. -/
theorem exists_row (i : Instr) : ∃ mk ∈ rows, mk i.rt = i := by
  cases i <;> exact ⟨_, by simp [rows], rfl⟩

theorem rt_of_row : ∀ mk ∈ rows, ∀ t, (mk t).rt = t := by simp [rows, Instr.rt]

/-- The operand plays no part in which pattern a row has. -/
theorem pattern_of_row (c : Config) : ∀ mk ∈ rows, ∀ t u, pattern c (mk t) = pattern c (mk u) := by
  simp [rows, pattern]

theorem pattern_mem_patterns {c : Config} {i : Instr} {p : Pattern} (h : pattern c i = some p) : p ∈ patterns c := by
  obtain ⟨mk, hmk, hi⟩ := exists_row i
  exact List.mem_filterMap.2 ⟨mk, hmk, by rw [pattern_of_row c mk hmk 0#5 i.rt, hi, h]⟩

theorem wf_of_pattern {c : Config} {i : Instr} {p : Pattern} (hc : c.unambiguous = true) (h : pattern c i = some p) :
    p.wf = true := by
  obtain ⟨hwf, -⟩ := Bool.and_eq_true_iff.1 hc
  exact List.all_eq_true.1 hwf p (pattern_mem_patterns h)

/-- The patterns of an earlier and a later row are disjoint. -/
theorem rows_pairwise_disjoint {c : Config} (hc : c.unambiguous = true) :
    rows.Pairwise fun mk mk' =>
      ∀ p, pattern c (mk 0#5) = some p → ∀ q, pattern c (mk' 0#5) = some q → p.disjoint q = true := by
  obtain ⟨-, hdisjoint⟩ := Bool.and_eq_true_iff.1 hc
  exact List.pairwise_filterMap.1 (of_decide_eq_true hdisjoint)

/-! ## Which row a word is of -/

/-- A word found in the table is of the pattern of the instruction found, and carries its operand. -/
theorem pattern_of_findRow {c : Config} {w : InstrWord} {i : Instr} (h : findRow c w = some i) :
    ∃ p, pattern c i = some p ∧ p.matchesWord w = true ∧ i.rt = p.rtOf w := by
  obtain ⟨mk, hmk, hfound⟩ := List.exists_of_findSome?_eq_some h
  split at hfound
  · next p hp =>
    split at hfound
    · next hw =>
      obtain rfl : mk (p.rtOf w) = i := Option.some.inj hfound
      exact ⟨p, (pattern_of_row c mk hmk _ _).trans hp, hw, rt_of_row mk hmk _⟩
    · cases hfound
  · cases hfound

/-- A word of an instruction's pattern is found as that instruction: each row before it has a pattern disjoint from its
own. -/
theorem findRow_of_pattern {c : Config} {w : InstrWord} {i : Instr} {p : Pattern} (hc : c.unambiguous = true)
    (hp : pattern c i = some p) (hw : p.matchesWord w = true) (hrt : i.rt = p.rtOf w) : findRow c w = some i := by
  obtain ⟨mk, hmk, hi⟩ := exists_row i
  have hrow : pattern c (mk 0#5) = some p := by rw [pattern_of_row c mk hmk 0#5 i.rt, hi, hp]
  obtain ⟨before, after, hsplit⟩ := List.append_of_mem hmk
  have hdisjoint := rows_pairwise_disjoint hc
  rw [hsplit, List.pairwise_append] at hdisjoint
  obtain ⟨-, -, hbefore⟩ := hdisjoint
  refine List.findSome?_eq_some_iff.2 ⟨before, mk, after, hsplit, ?_, ?_⟩
  · simp only [hrow, hw, if_true, ← hrt, hi]
  · intro mk' hmk'
    split
    · next q hq =>
      have hapart : q.disjoint p = true := hbefore mk' hmk' mk List.mem_cons_self q hq p hrow
      simp [Pattern.not_matchesWord_of_disjoint hapart hw]
    · rfl

theorem encodeWord_eq_some_iff {c : Config} {i : Instr} {w : InstrWord} :
    encodeWord c i = some w ↔ ∃ p, pattern c i = some p ∧ p.wordOf i.rt = w := by
  simp [encodeWord]

/-- DECODE AND ENCODE AGREE, for words: the table finds an instruction for its own word and for no other. -/
theorem findRow_eq_some_iff {c : Config} {w : InstrWord} {i : Instr} (hc : c.unambiguous = true) :
    findRow c w = some i ↔ encodeWord c i = some w := by
  rw [encodeWord_eq_some_iff]
  constructor
  · intro h
    obtain ⟨p, hp, hw, hrt⟩ := pattern_of_findRow h
    exact ⟨p, hp, by rw [hrt, Pattern.wordOf_rtOf (wf_of_pattern hc hp) hw]⟩
  · rintro ⟨p, hp, rfl⟩
    have hwf : p.wf = true := wf_of_pattern hc hp
    exact findRow_of_pattern hc hp (Pattern.matchesWord_wordOf hwf _) (rtOf_wordOf p _ hwf).symm

/-- Two instructions never have the same word. -/
theorem encodeWord_injective {c : Config} {w : InstrWord} {i j : Instr} (hc : c.unambiguous = true)
    (hi : encodeWord c i = some w) (hj : encodeWord c j = some w) : i = j :=
  Option.some.inj (((findRow_eq_some_iff hc).2 hi).symm.trans ((findRow_eq_some_iff hc).2 hj))

theorem encodingsOk_iff (c : Config) :
    c.encodingsOk = true ↔ c.wf = true ∧ c.matchWordsCarryTuple = true ∧ c.unambiguous = true := by
  simp [Config.encodingsOk, and_assoc]

theorem unambiguous_of_encodingsOk {c : Config} (h : c.encodingsOk = true) : c.unambiguous = true := by
  obtain ⟨-, -, hc⟩ := (encodingsOk_iff c).1 h
  exact hc

/-! ## Encodings that are OPEN (R57) -/

theorem encOf_of_writePattern {c : Config} {f : TrapField} {p : Pattern} (h : writePattern c f = some p) :
    ∃ e, c.encOf f = some e := by
  obtain ⟨e, he, -⟩ := Option.map_eq_some_iff.1 h
  exact ⟨e, he⟩

/-- The pattern of a trapped write needs the encoding of its target register, that of the MSRR its layout as well. -/
theorem supplied_of_pattern {c : Config} {i : Instr} {f : TrapField} {p : Pattern} (hp : pattern c i = some p)
    (hf : i.trapField = some f) :
    (∃ e, c.encOf f = some e) ∧ ∀ t, i = .msrrRCWSMASK t → ∃ l, c.msrr = some l := by
  cases i with
  | mrsHFGWTR2 t => cases hf
  | msrHFGWTR2 t => cases hf
  | msrrRCWSMASK t =>
    obtain rfl : .nRCWSMASK = f := Option.some.inj hf
    rw [pattern] at hp
    split at hp
    · next l e hl he => exact ⟨⟨e, he⟩, fun _ _ => ⟨l, hl⟩⟩
    · cases hp
  | _ =>
    obtain rfl := Option.some.inj hf
    exact ⟨encOf_of_writePattern hp, nofun⟩

/-! ## The words of the two accesses (R50, R51) -/

/-- An operand at bit 0 lies below the tuple's bits [20:5]. -/
theorem tuple_of_or_operand (m : InstrWord) (t : RegNum) :
    (m ||| t.setWidth 32 <<< 0).extractLsb' 5 16 = m.extractLsb' 5 16 := by
  apply BitVec.eq_of_getLsbD_eq
  intro j hj
  simp

theorem matchWordsCarryTuple_iff (c : Config) :
    c.matchWordsCarryTuple = true
      ↔ c.matchMRS.extractLsb' 5 16 = Machine.specTuple ∧ c.matchMSR.extractLsb' 5 16 = Machine.specTuple := by
  rw [show Machine.specTuple = hfgwtr2Enc.packed from rfl]
  simp [Config.matchWordsCarryTuple]

theorem encodeWord_mrsHFGWTR2 (c : Config) (t : RegNum) :
    encodeWord c (.mrsHFGWTR2 t) = some (c.matchMRS ||| t.setWidth 32 <<< 0) := rfl

theorem encodeWord_msrHFGWTR2 (c : Config) (t : RegNum) :
    encodeWord c (.msrHFGWTR2 t) = some (c.matchMSR ||| t.setWidth 32 <<< 0) := rfl

end Sys2Proof

namespace Sys2Proof.Machine

/-! ## A word placed at the program counter (R48, R51) -/

/-- A word written as a number of the opcode table's is the word. -/
theorem tableWord_toNat (w : InstrWord) : tableWord 32 w.toNat = w := by
  rw [tableWord, Nat.mod_eq_of_lt w.isLt, BitVec.ofNat_toNat, BitVec.setWidth_eq]

theorem fetch_placeWord {s : State} (hpc : s.pc.toNat % 4 = 0) (w : InstrWord) :
    fetch (placeWord w s) = .next (bytesOfWord w) := by
  have hread : ∀ k (hk : k < 4), (placeWord w s).text.read (s.pc.toNat + k) = some ((bytesOfWord w)[k]'hk) :=
    fun k hk => Memory.read_writeBytes_inside (bytesOfWord w) s.text s.pc.toNat k hk
  exact fetch_of_bytes hpc (hread 0 (by omega)) (hread 1 (by omega)) (hread 2 (by omega)) (hread 3 (by omega))

/-- The decoder reads the placed word's bytes as that word, and no byte is left. -/
theorem decode_placeWord (s : State) (w : InstrWord) :
    decode (placeWord w s).cfg (bytesOfWord w) = (decodeWord s.cfg w).map (·, []) := by
  rw [← decode_bytesOfWord_append, List.append_nil]
  rfl

theorem runInstr_of_undecodable {s : State} {bs : List Byte} {r : DecodeRefusal} (haa64 : s.pstate.aarch64 = true)
    (hfetch : fetch s = .next bs) (hdecode : decode s.cfg bs = .error r) : runInstr s = .refused (.undecodable r) := by
  simp only [runInstr, haa64, if_true, hfetch, hdecode]

/-- Placing a word leaves the environment nothing to do before the instruction. -/
theorem step_withFetchWord (s : State) (w : InstrWord) :
    step (s.withFetchWord 32 w.toNat) = runInstr (placeWord w s) := by
  rw [State.withFetchWord, tableWord_toNat]
  exact step_of_end rfl

/-! ## The obligations -/

/-- Settles O3: the bytes are those of the instruction's word, and the table finds the instruction for its own word. -/
theorem encodeThenDecode : Obligations.EncodeThenDecode := by
  intro c i bs rest hc hwf hbs
  obtain ⟨w, hw, rfl⟩ := Option.map_eq_some_iff.1 hbs
  have hrow : findRow c w = some i := (findRow_eq_some_iff (unambiguous_of_encodingsOk hc)).2 hw
  rw [decode_bytesOfWord_append, decodeWord_eq_ok_iff.2 ⟨hrow, hwf⟩]
  rfl

/-- Settles O4: the bytes begin with a word, and the table finds an instruction for its own word only. -/
theorem decodeThenEncode : Obligations.DecodeThenEncode := by
  intro c i bs rest hc hbs
  obtain ⟨w, hdecode, rfl⟩ := decode_ok hbs
  obtain ⟨hrow, hwf⟩ := decodeWord_eq_ok_iff.1 hdecode
  have hw : encodeWord c i = some w := (findRow_eq_some_iff (unambiguous_of_encodingsOk hc)).1 hrow
  exact ⟨hwf, bytesOfWord w, by rw [encode, hw]; rfl, rfl⟩

/-- Settles O5: what decodes has a pattern, under any configuration. -/
theorem openEncodingsNeverDecode : Obligations.OpenEncodingsNeverDecode := by
  intro c w i f hdecode hf
  obtain ⟨hrow, -⟩ := decodeWord_eq_ok_iff.1 hdecode
  obtain ⟨p, hp, -⟩ := pattern_of_findRow hrow
  exact supplied_of_pattern hp hf

/-- Settles O7: the match words carry the tuple and the operand lies below it; one word for both accesses would have two
meanings. -/
theorem sameTupleForReadAndWrite : Obligations.SameTupleForReadAndWrite := by
  intro c t u hc
  obtain ⟨-, htuple, hunambiguous⟩ := (encodingsOk_iff c).1 hc
  obtain ⟨hmrs, hmsr⟩ := (matchWordsCarryTuple_iff c).1 htuple
  refine ⟨_, _, encodeWord_mrsHFGWTR2 c t, encodeWord_msrHFGWTR2 c u, ?_, ?_, ?_⟩
  · rw [tuple_of_or_operand, hmrs]
  · rw [tuple_of_or_operand, hmsr]
  · intro heq
    cases encodeWord_injective hunambiguous (encodeWord_mrsHFGWTR2 c t) (heq ▸ encodeWord_msrHFGWTR2 c u)

/-- Settles O43: the fetch gives the placed word's bytes, and the decoder the word's instruction. -/
theorem placedWordRuns : Obligations.PlacedWordRuns := by
  intro s w i hpc haa64 hdecode
  have hbytes : decode (placeWord w s).cfg (bytesOfWord w) = .ok (i, []) := by
    rw [decode_placeWord, hdecode]
    rfl
  rw [step_withFetchWord, State.withFetchWord, tableWord_toNat]
  exact runInstr_of_decoded haa64 (fetch_placeWord hpc w) hbytes

/-- Settles O44: the fetch gives the placed word's bytes, and the step passes on the decoder's refusal. -/
theorem undecodedWordRefused : Obligations.UndecodedWordRefused := by
  intro s w r hpc haa64 hdecode
  have hbytes : decode (placeWord w s).cfg (bytesOfWord w) = .error r := by
    rw [decode_placeWord, hdecode]
    rfl
  rw [step_withFetchWord]
  exact runInstr_of_undecodable haa64 (fetch_placeWord hpc w) hbytes

/-- Settles O1: the decoder evaluates on each word to the instruction listed. -/
theorem specWordsDecode : Obligations.SpecWordsDecode := ⟨rfl, rfl, rfl, rfl, rfl, rfl⟩

/-- Settles O2: the decoder evaluates on each word to the refusal. -/
theorem neighbourWordsNotDecoded : Obligations.NeighbourWordsNotDecoded := ⟨rfl, rfl, rfl, rfl, rfl, rfl⟩

/-- Settles O6, at the match words of the default configuration. -/
theorem accessWordsWithOperand : Obligations.AccessWordsWithOperand := by
  intro t
  rw [encodeWord_mrsHFGWTR2, encodeWord_msrHFGWTR2, BitVec.shiftLeft_zero]
  exact ⟨rfl, rfl⟩

end Sys2Proof.Machine

/-! # The two accesses of HFGWTR2_EL2 (40_mrs_msr_hfgwtr2.md)

The conditions of the five paths cover every state and each determines the path, so each is exactly its path's. On each
path the instruction is one operation: an exception entry, a read or write behind NVMem, or a read or write of the
register. What each operation leaves in the state is said once, for both instructions. -/

namespace Sys2Proof.Machine

/-! ## The path of an access (R60) -/

/-- Branches U1 to U5 of R60. -/
theorem accessPath_of_undefinedCondition {s : State} (h : UndefinedCondition s) : accessPath s = .undefined := by
  obtain habsent | hel0 | ⟨hel1, hnvx⟩ | ⟨hel2, ⟨hhave, hzero⟩, hsdd⟩ := h
  · have hno : s.cfg.present = false := by simpa [Present, Config.present] using habsent
    simp [accessPath, hno]
  · simp [accessPath, hel0]
  · rcases hnvx with hnvx | hnvx | hnvx | hnvx <;>
      simp [accessPath, hel1, hnvx, nvxMatches1x1, nvxMatchesxx1]
  · obtain hprio | hsdd := hsdd
    · simp [accessPath, hel2, hhave, hzero, hprio]
    · simp [accessPath, hel2, hhave, hzero, hsdd]

/-- Branch T2 of R60. -/
theorem accessPath_of_trapEL2Condition {s : State} (h : TrapEL2Condition s) : accessPath s = .trapEL2 := by
  obtain ⟨⟨hfgt2, haa64⟩, hel1, hnvx | hnvx⟩ := h
  · simp [accessPath, Config.present, hfgt2, haa64, hel1, hnvx, nvxMatches1x1, nvxMatchesxx1]
  · simp [accessPath, Config.present, hfgt2, haa64, hel1, hnvx, nvxMatches1x1, nvxMatchesxx1]

/-- Branch T3 of R60. -/
theorem accessPath_of_trapEL3Condition {s : State} (h : TrapEL3Condition s) : accessPath s = .trapEL3 := by
  obtain ⟨⟨hfgt2, haa64⟩, hel2, ⟨hhave, hzero⟩, hprio, hsdd⟩ := h
  simp [accessPath, Config.present, hfgt2, haa64, hel2, hhave, hzero, hprio, hsdd]

theorem nvx_cases (n : BitVec 3) :
    (n = 0b000#3 ∨ n = 0b010#3 ∨ n = 0b100#3 ∨ n = 0b110#3) ∨ (n = 0b001#3 ∨ n = 0b011#3)
      ∨ (n = 0b101#3 ∨ n = 0b111#3) := by
  revert n; decide

/-- The condition R60 gives for a path. -/
def PathCondition (s : State) : AccessPath → Prop
  | .undefined => UndefinedCondition s
  | .trapEL2 => TrapEL2Condition s
  | .trapEL3 => TrapEL3Condition s
  | .nvMem => NvMemCondition s
  | .direct => DirectCondition s

/-- The condition of a path determines it. -/
theorem accessPath_of_pathCondition {s : State} {p : AccessPath} (h : PathCondition s p) : accessPath s = p := by
  cases p with
  | undefined => exact accessPath_of_undefinedCondition h
  | trapEL2 => exact accessPath_of_trapEL2Condition h
  | trapEL3 => exact accessPath_of_trapEL3Condition h
  | nvMem => exact accessPath_of_nvMemCondition h
  | direct => exact accessPath_of_directCondition h

/-- The five conditions cover every state. -/
theorem exists_pathCondition (s : State) : ∃ p, PathCondition s p := by
  by_cases hpresent : Present s
  case neg => exact ⟨.undefined, .inl hpresent⟩
  cases hel : s.pstate.el with
  | el0 => exact ⟨.undefined, .inr (.inl hel)⟩
  | el1 =>
    obtain hnvx | hnvx | hnvx := nvx_cases s.inp.nvx
    · exact ⟨.undefined, .inr (.inr (.inl ⟨hel, hnvx⟩))⟩
    · exact ⟨.trapEL2, hpresent, hel, hnvx⟩
    · exact ⟨.nvMem, hpresent, hel, hnvx⟩
  | el2 =>
    by_cases hlocked : LockedByEL3 s
    · by_cases hsdd : s.inp.sddPrio = true ∨ s.inp.sdd = true
      · exact ⟨.undefined, .inr (.inr (.inr ⟨hel, hlocked, hsdd⟩))⟩
      · obtain ⟨hprio, hsdd⟩ := not_or.1 hsdd
        exact ⟨.trapEL3, hpresent, hel, hlocked, Bool.eq_false_of_not_eq_true hprio,
          Bool.eq_false_of_not_eq_true hsdd⟩
    · exact ⟨.direct, hpresent, .inr ⟨hel, hlocked⟩⟩
  | el3 => exact ⟨.direct, hpresent, .inl hel⟩

/-- An access takes a path in exactly the states of its condition (R60). -/
theorem accessPath_eq_iff (s : State) (p : AccessPath) : accessPath s = p ↔ PathCondition s p := by
  obtain ⟨q, hq⟩ := exists_pathCondition s
  have hpath : accessPath s = q := accessPath_of_pathCondition hq
  constructor
  · intro h
    rwa [← h, hpath]
  · exact accessPath_of_pathCondition

/-- The path does not depend on the register (R60 fact 6). -/
theorem accessPath_setHfgwtr2 (s : State) (v : Word) : accessPath { s with hfgwtr2 := v } = accessPath s := rfl

/-! ## What each path runs (R61, R62) -/

theorem execMrs_of_trapEL2 {s : State} (h : accessPath s = .trapEL2) (t : RegNum) :
    exec (.mrsHFGWTR2 t) s = .next (accessTrap .el2 t true s) := by
  simp only [exec, execMrsHFGWTR2, h]

theorem execMsr_of_trapEL2 {s : State} (h : accessPath s = .trapEL2) (t : RegNum) :
    exec (.msrHFGWTR2 t) s = .next (accessTrap .el2 t false s) := by
  simp only [exec, execMsrHFGWTR2, h]

theorem execMrs_of_trapEL3 {s : State} (h : accessPath s = .trapEL3) (t : RegNum) :
    exec (.mrsHFGWTR2 t) s = .next (accessTrap .el3 t true s) := by
  simp only [exec, execMrsHFGWTR2, h]

theorem execMsr_of_trapEL3 {s : State} (h : accessPath s = .trapEL3) (t : RegNum) :
    exec (.msrHFGWTR2 t) s = .next (accessTrap .el3 t false s) := by
  simp only [exec, execMsrHFGWTR2, h]

/-- On the undefined path the read and the write are alike. -/
theorem exec_access_of_undefined {s : State} {i : Instr} {t : RegNum} (hi : i = .mrsHFGWTR2 t ∨ i = .msrHFGWTR2 t)
    (h : accessPath s = .undefined) : exec i s = .next (raiseUndefined s) := by
  obtain rfl | rfl := hi
  · simp only [exec, execMrsHFGWTR2, h]
  · simp only [exec, execMsrHFGWTR2, h]

theorem execMrs_of_nvMem_next {s : State} {v : Word} (h : accessPath s = .nvMem) (hv : nvMemRead s = .next v)
    (t : RegNum) : exec (.mrsHFGWTR2 t) s = .next (s.setX t v).advancePc := by
  simp only [exec, execMrsHFGWTR2, h, hv]

theorem execMsr_of_nvMem_next {s u : State} {t : RegNum} (h : accessPath s = .nvMem)
    (hu : nvMemWrite (s.x t) s = .next u) : exec (.msrHFGWTR2 t) s = .next u.advancePc := by
  simp only [exec, execMsrHFGWTR2, h, hu]

/-- The state a completed write behind NVMem leaves (R62). -/
theorem execMsr_next_of_nvMem {s s' : State} {t : RegNum} (hpath : accessPath s = .nvMem)
    (h : exec (.msrHFGWTR2 t) s = .next s') : ∃ u, nvMemWrite (s.x t) s = .next u ∧ s' = u.advancePc := by
  obtain ⟨hother, -⟩ | ⟨hother, -⟩ | ⟨hother, -⟩ | ⟨-, hwrite⟩ | ⟨hother, -⟩ := execMsrHFGWTR2_next h
  · simp [hpath] at hother
  · simp [hpath] at hother
  · simp [hpath] at hother
  · exact hwrite
  · simp [hpath] at hother

/-! ## The RES0 treatment (R12) -/

/-- A direct read masks the RES0 bits unless the policy stores them (R61 corner case c). -/
theorem res0Read_eq (c : Config) (v : Word) : res0Read c v = if c.res0Policy = .stored then v else v &&& wmask c := by
  split
  · next hp => simp [res0Read, hp]
  · next hp => exact res0Read_of_not_stored hp v

/-- A direct write: `refuse` refuses a 1 in a RES0 bit, `razWi` masks the RES0 bits (R62). -/
theorem res0Write_eq (c : Config) (v : Word) :
    res0Write c v = if c.res0Policy = .refuse ∧ v &&& ~~~(wmask c) ≠ 0#64 then .refused .writeOneToRes0
      else .next (if c.res0Policy = .razWi then v &&& wmask c else v) := by
  unfold res0Write
  cases hp : c.res0Policy with
  | refuse => by_cases hclear : v &&& ~~~(wmask c) = 0#64 <;> simp [hclear]
  | razWi => simp
  | stored => simp

theorem res0Write_of_accepted {c : Config} {v : Word}
    (h : ¬ (c.res0Policy = .refuse ∧ v &&& ~~~(wmask c) ≠ 0#64)) :
    res0Write c v = .next (if c.res0Policy = .razWi then v &&& wmask c else v) := by
  rw [res0Write_eq, if_neg h]

/-- What an accepted direct write stores is what a direct read returns (R63). -/
theorem res0Read_of_res0Write {c : Config} {v w : Word} (h : res0Write c v = .next w) : res0Read c w = w := by
  obtain ⟨hp, hclear, rfl⟩ | ⟨hp, rfl⟩ | ⟨hp, rfl⟩ := res0Write_next h
  · simp [res0Read, hp, and_mask_of_clear hclear]
  · simp [res0Read, hp, and_mask_of_clear (and_mask_clear v (wmask c))]
  · simp [res0Read, hp]

/-- The value an accepted direct write stores, by policy (R62). -/
theorem eq_of_res0Write {c : Config} {v w : Word} (h : res0Write c v = .next w) :
    w = if c.res0Policy = .razWi then v &&& wmask c else v := by
  obtain ⟨hp, -, rfl⟩ | ⟨hp, rfl⟩ | ⟨hp, rfl⟩ := res0Write_next h
  · simp [hp]
  · simp [hp]
  · simp [hp]

/-! ## What a completed MRS leaves (R61) -/

/-- What `x[t]` reads after `x[t] <- v` (R30). -/
theorem x_setX_self (s : State) (t : RegNum) (v : Word) : (s.setX t v).x t = if t = 31#5 then 0#64 else v := by
  rw [x_setX]
  by_cases ht : t = 31#5
  · simp [ht]
  · simp [ht]

/-- Writing the result and moving past the instruction is a completed MRS, on the direct and on the NVMem path. -/
theorem mrsCompleted_setX_advancePc (t : RegNum) (v : Word) (s : State) :
    MrsCompleted t v s (s.setX t v).advancePc := by
  have hothers : ∀ r, r ≠ t → (s.setX t v).advancePc.x r = s.x r := by
    intro r hr
    rw [x_advancePc, x_setX, if_neg (fun h => hr h.1)]
  exact ⟨x_setX_self s t v, hothers, rfl, rfl, rfl, rfl, setX_advancePc_fixedKept t v s, ⟨rfl, rfl, rfl, rfl⟩,
    fun _ => rfl, rfl, rfl⟩

/-! ## The NVMem access (R41, R42) -/

/-- Bytes that read alike make runs that read alike. -/
theorem State.bytesAt_congr {s u : State} (h : ∀ a, u.byteAt a = s.byteAt a) (a n : Nat) :
    u.bytesAt a n = s.bytesAt a n := by
  induction n generalizing a with
  | zero => rfl
  | succ n ih => simp only [State.bytesAt, h, ih]

/-- What an NVMem read depends on. -/
theorem nvMemRead_congr {s u : State} (hinp : u.inp = s.inp) (hcfg : u.cfg = s.cfg) (hcell : u.nvCell = s.nvCell)
    (hbyte : ∀ a, u.byteAt a = s.byteAt a) : nvMemRead u = nvMemRead s := by
  simp only [nvMemRead, hinp, hcfg, hcell, State.bytesAt_congr hbyte]

theorem nvMemRead_advancePc (s : State) : nvMemRead s.advancePc = nvMemRead s :=
  nvMemRead_congr rfl rfl rfl (fun _ => rfl)

theorem nvMemRead_of_cell {s : State} {v : Word} (hfault : s.inp.nvMemFault = false) (hmap : s.cfg.nvMap = none)
    (hcell : s.nvCell = some v) : nvMemRead s = .next v := by
  simp [nvMemRead, hfault, hmap, hcell]

theorem nvMemRead_of_bytes {s : State} {m : NvMap} {bs : List Byte} (hfault : s.inp.nvMemFault = false)
    (hmap : s.cfg.nvMap = some m) (hwf : m.wf = true) (hbytes : s.bytesAt (nvAddress m) 8 = some bs) :
    nvMemRead s = .next (nvOfBytes m bs) := by
  simp [nvMemRead, hfault, hmap, hwf, hbytes]

theorem nvMemWrite_of_cell {s : State} (hfault : s.inp.nvMemFault = false) (hmap : s.cfg.nvMap = none) (v : Word) :
    nvMemWrite v s = .next { s with nvCell := some v } := by
  simp [nvMemWrite, nvMemStore, hfault, hmap]

theorem nvMemWrite_of_bytes {s : State} {m : NvMap} (hfault : s.inp.nvMemFault = false)
    (hmap : s.cfg.nvMap = some m) (hwf : m.wf = true) (htext : s.text.listsAny (nvAddress m) 8 = false) (v : Word) :
    nvMemWrite v s = .next { s with mem := s.mem.writeBytes (nvAddress m) (nvToBytes m v) } := by
  simp [nvMemWrite, nvMemStore, hfault, hmap, hwf, htext]

/-- Eight bytes as a value, in either byte order (R42). -/
theorem nvOfBytes_eight (m : NvMap) (b0 b1 b2 b3 b4 b5 b6 b7 : Byte) :
    nvOfBytes m [b0, b1, b2, b3, b4, b5, b6, b7] = if m.bigEndian then b0 ++ b1 ++ b2 ++ b3 ++ b4 ++ b5 ++ b6 ++ b7
      else b7 ++ b6 ++ b5 ++ b4 ++ b3 ++ b2 ++ b1 ++ b0 := by
  unfold nvOfBytes
  split
  · rfl
  · rfl

/-- Byte `i` of a value as memory holds it, in either byte order (R42). -/
theorem getElem_nvToBytes (m : NvMap) (v : Word) (i : Nat) (hi : i < (nvToBytes m v).length) :
    (nvToBytes m v)[i] = v.extractLsb' (8 * (if m.bigEndian then 7 - i else i)) 8 := by
  have hi8 : i < 8 := by rwa [length_nvToBytes] at hi
  cases hbig : m.bigEndian with
  | true => simp only [nvToBytes, hbig, if_true]; interval_cases i <;> rfl
  | false => simp only [nvToBytes, hbig, Bool.false_eq_true, if_false]; interval_cases i <;> rfl

/-- A run none of whose bytes is listed. -/
theorem Memory.listsAny_eq_false {m : Memory} {a n : Nat} (h : ∀ i, i < n → m.read (a + i) = none) :
    m.listsAny a n = false := by
  induction n generalizing a with
  | zero => rfl
  | succ n ih =>
    have hfirst : m.read a = none := h 0 (by omega)
    have hrest : m.listsAny (a + 1) n = false := ih fun i hi => by
      rw [show a + 1 + i = a + (i + 1) by omega]
      exact h (i + 1) (by omega)
    simp [Memory.listsAny, hfirst, hrest]

/-- A byte of a stored run, where the program text has none there. -/
theorem byteAt_writeBytes_inside {s : State} {a i : Nat} {bs : List Byte} (hi : i < bs.length)
    (htext : s.text.read (a + i) = none) :
    State.byteAt { s with mem := s.mem.writeBytes a bs } (a + i) = some bs[i] := by
  simp only [State.byteAt, htext, Memory.read_writeBytes_inside bs s.mem a i hi]

theorem byteAt_writeBytes_outside {s : State} {a r : Nat} {bs : List Byte} (h : r < a ∨ a + bs.length ≤ r) :
    State.byteAt { s with mem := s.mem.writeBytes a bs } r = s.byteAt r := by
  simp only [State.byteAt, Memory.read_writeBytes_outside bs s.mem a r h]

/-- What a store behind NVMem writes, an NVMem read returns (R63). -/
theorem nvMemRead_of_nvMemStore {v : Word} {s u : State} (hfault : s.inp.nvMemFault = false)
    (h : nvMemStore v s = .next u) : nvMemRead u = .next v := by
  obtain ⟨hmap, rfl⟩ | ⟨m, hmap, hwf, htext, rfl⟩ := nvMemStore_next h
  · exact nvMemRead_of_cell hfault hmap rfl
  · have hbytes : State.bytesAt { s with mem := s.mem.writeBytes (nvAddress m) (nvToBytes m v) } (nvAddress m) 8
        = some (nvToBytes m v) := by
      rw [← length_nvToBytes m v]
      refine State.bytesAt_eq_some _ _ _ fun i hi => byteAt_writeBytes_inside hi ?_
      exact Memory.read_of_not_listsAny s.text 8 _ i htext (by rwa [length_nvToBytes] at hi)
    refine (nvMemRead_of_bytes ?_ ?_ hwf hbytes).trans (by rw [nvOfBytes_nvToBytes])
    · exact hfault
    · exact hmap

/-- A store behind NVMem does not change the path of an access (R60). -/
theorem nvMemCondition_of_nvMemStore {v : Word} {s u : State} (hcond : NvMemCondition s)
    (h : nvMemStore v s = .next u) : NvMemCondition u := by
  obtain ⟨-, rfl⟩ | ⟨m, -, -, -, rfl⟩ := nvMemStore_next h
  · exact hcond
  · exact hcond

/-! ## Exception entries (R90, R91, R97) -/

theorem enteredException_takeException (tgt : TargetEL) (y : Syndrome) (s : State) :
    EnteredException tgt y.ec s (takeException tgt y s) := by
  have hothers : ∀ r, r ≠ tgt → (takeException tgt y s).bank r = s.bank r :=
    fun r hr => takeException_bank_of_ne tgt r y s hr
  refine ⟨?_, ?_, ?_, ?_, hothers, takeException_pstate .., takeException_pc .., takeException_hfgwtr2 ..,
    x_takeException tgt y s, ⟨byteAt_takeException tgt y s, takeException_mem .., takeException_nvCell ..⟩,
    takeException_fixedKept tgt y s⟩ <;> rw [takeException_bank]

/-- An entry with a free syndrome records what the entry from the state before the tick does (assumption 18). -/
theorem enteredException_takeException_tick (tgt : TargetEL) (y : Syndrome) (s : State) :
    EnteredException tgt y.ec s (takeException tgt y s.tick) := by
  have h := enteredException_takeException tgt y s.tick
  simp only [EnteredException, bank_tick] at h
  exact h

/-- The level an UNDEFINED instruction is taken to (R90's passage). -/
theorem undefinedTarget_eq (s : State) :
    (s.pstate.el = .el3 → undefinedTarget s = .el3) ∧ (s.pstate.el = .el2 → undefinedTarget s = .el2)
      ∧ (s.pstate.el = .el0 ∨ s.pstate.el = .el1 → undefinedTarget s = if s.inp.tge then .el2 else .el1) := by
  refine ⟨fun h => ?_, fun h => ?_, fun h => ?_⟩
  · simp only [undefinedTarget, h]
  · simp only [undefinedTarget, h]
  · obtain h | h := h <;> simp only [undefinedTarget, h]

/-- The ISS of a trapped access of HFGWTR2_EL2: R92's layout of the tuple of R50, with `Rt` at [9:5] and the direction
at [0]. -/
theorem sysRegIss_hfgwtr2 (t : RegNum) (isRead : Bool) : sysRegIss hfgwtr2Enc.packed t isRead
    = (if isRead then 0x370C03#25 else 0x370C02#25) ||| (t.setWidth 25 <<< 5) := by
  revert t isRead; decide

theorem esr_accessTrap (tgt : TargetEL) (t : RegNum) (isRead : Bool) (s : State) :
    ((accessTrap tgt t isRead s).bank tgt).esr = ⟨0x18#6, 1#1, sysRegIss hfgwtr2Enc.packed t isRead⟩ := by
  rw [accessTrap, raiseSystemAccessTrap, takeException_bank]

/-- The trap of an access enters its target level with the syndrome R92 lays out. -/
theorem accessTrap_entered (tgt : TargetEL) (t : RegNum) (isRead : Bool) (s : State) :
    EnteredException tgt 0x18#6 s (accessTrap tgt t isRead s)
      ∧ ((accessTrap tgt t isRead s).bank tgt).esr.iss
        = (if isRead then 0x370C03#25 else 0x370C02#25) ||| (t.setWidth 25 <<< 5)
      ∧ ((accessTrap tgt t isRead s).bank tgt).esr.il = 1#1 := by
  rw [esr_accessTrap, sysRegIss_hfgwtr2]
  exact ⟨enteredException_takeException .., rfl, rfl⟩

/-! ## The register plays no part below EL2 (R60 fact 6, R61 corner case d) -/

/-- An answer with another value of the register in the state it gives, if any. -/
def withRegister (v : Word) : Answer State → Answer State
  | .next s => .next { s with hfgwtr2 := v }
  | .fault r => .fault r
  | .refused r => .refused r

theorem takeException_setHfgwtr2 (tgt : TargetEL) (y : Syndrome) (s : State) (v : Word) :
    takeException tgt y { s with hfgwtr2 := v } = { takeException tgt y s with hfgwtr2 := v } := by
  cases tgt <;> rfl

theorem raiseUndefined_setHfgwtr2 (s : State) (v : Word) :
    raiseUndefined { s with hfgwtr2 := v } = { raiseUndefined s with hfgwtr2 := v } :=
  takeException_setHfgwtr2 (undefinedTarget s) _ s.tick v

theorem accessTrap_setHfgwtr2 (tgt : TargetEL) (t : RegNum) (isRead : Bool) (s : State) (v : Word) :
    accessTrap tgt t isRead { s with hfgwtr2 := v } = { accessTrap tgt t isRead s with hfgwtr2 := v } :=
  takeException_setHfgwtr2 tgt _ s v

theorem nvMemRead_setHfgwtr2 (s : State) (v : Word) : nvMemRead { s with hfgwtr2 := v } = nvMemRead s :=
  nvMemRead_congr rfl rfl rfl (fun _ => rfl)

theorem nvMemWrite_setHfgwtr2 (w : Word) (s : State) (v : Word) :
    nvMemWrite w { s with hfgwtr2 := v } = withRegister v (nvMemWrite w s) := by
  unfold nvMemWrite nvMemStore
  dsimp only
  split
  · rfl
  · split
    · rfl
    · split
      · split
        · rfl
        · rfl
      · rfl

/-- On the NVMem path MRS returns what is in memory, whatever the register holds. -/
theorem execMrs_nvMem_setHfgwtr2 {s : State} (hpath : accessPath s = .nvMem) (t : RegNum) (v : Word) :
    exec (.mrsHFGWTR2 t) { s with hfgwtr2 := v } = withRegister v (exec (.mrsHFGWTR2 t) s) := by
  have hpath' : accessPath { s with hfgwtr2 := v } = .nvMem := hpath
  have hread := nvMemRead_setHfgwtr2 s v
  cases hr : nvMemRead s with
  | next w => rw [execMrs_of_nvMem_next hpath hr, execMrs_of_nvMem_next hpath' (hread.trans hr)]; rfl
  | fault r => rw [execMrs_of_nvMem_fault hpath hr, execMrs_of_nvMem_fault hpath' (hread.trans hr)]; rfl
  | refused r => rw [execMrs_of_nvMem_refused hpath hr, execMrs_of_nvMem_refused hpath' (hread.trans hr)]; rfl

/-- On the NVMem path MSR writes memory, whatever the register holds, and leaves the register. -/
theorem execMsr_nvMem_setHfgwtr2 {s : State} (hpath : accessPath s = .nvMem) (t : RegNum) (v : Word) :
    exec (.msrHFGWTR2 t) { s with hfgwtr2 := v } = withRegister v (exec (.msrHFGWTR2 t) s) := by
  have hpath' : accessPath { s with hfgwtr2 := v } = .nvMem := hpath
  have hwrite := nvMemWrite_setHfgwtr2 (s.x t) s v
  cases hw : nvMemWrite (s.x t) s with
  | next u => rw [hw] at hwrite; rw [execMsr_of_nvMem_next hpath hw, execMsr_of_nvMem_next hpath' hwrite]; rfl
  | fault r => rw [hw] at hwrite; rw [execMsr_of_nvMem_fault hpath hw, execMsr_of_nvMem_fault hpath' hwrite]; rfl
  | refused r => rw [hw] at hwrite; rw [execMsr_of_nvMem_refused hpath hw, execMsr_of_nvMem_refused hpath' hwrite]; rfl

/-- Off the direct path an access ends in the same way with another value of the register. -/
theorem exec_access_setHfgwtr2 {s : State} {i : Instr} {t : RegNum} (hi : i = .mrsHFGWTR2 t ∨ i = .msrHFGWTR2 t)
    (hpath : accessPath s ≠ .direct) (v : Word) :
    exec i { s with hfgwtr2 := v } = withRegister v (exec i s) := by
  have hsame := accessPath_setHfgwtr2 s v
  cases hp : accessPath s with
  | undefined =>
    rw [exec_access_of_undefined hi hp, exec_access_of_undefined hi (hsame.trans hp), raiseUndefined_setHfgwtr2]
    rfl
  | trapEL2 =>
    obtain rfl | rfl := hi
    · rw [execMrs_of_trapEL2 hp, execMrs_of_trapEL2 (hsame.trans hp), accessTrap_setHfgwtr2]; rfl
    · rw [execMsr_of_trapEL2 hp, execMsr_of_trapEL2 (hsame.trans hp), accessTrap_setHfgwtr2]; rfl
  | trapEL3 =>
    obtain rfl | rfl := hi
    · rw [execMrs_of_trapEL3 hp, execMrs_of_trapEL3 (hsame.trans hp), accessTrap_setHfgwtr2]; rfl
    · rw [execMsr_of_trapEL3 hp, execMsr_of_trapEL3 (hsame.trans hp), accessTrap_setHfgwtr2]; rfl
  | nvMem =>
    obtain rfl | rfl := hi
    · exact execMrs_nvMem_setHfgwtr2 hp t v
    · exact execMsr_nvMem_setHfgwtr2 hp t v
  | direct => exact absurd hp hpath

/-! ## The obligations -/

/-- Settles O8: the five conditions cover every state and each determines its path, so a state on a path meets that
path's condition. -/
theorem accessPathsAreR60 : Obligations.AccessPathsAreR60 := fun s =>
  ⟨accessPath_eq_iff s .undefined, accessPath_eq_iff s .trapEL2, accessPath_eq_iff s .trapEL3,
    accessPath_eq_iff s .nvMem, accessPath_eq_iff s .direct⟩

/-- Settles O11: the eight bytes are a run, and a run is read as a value in the configured byte order. -/
theorem mrsNvMemBytesCompletes : Obligations.MrsNvMemBytesCompletes := by
  intro s t m b0 b1 b2 b3 b4 b5 b6 b7 hcond hfault hmap hbase h0 h1 h2 h3 h4 h5 h6 h7
  have hbytes : s.bytesAt (nvAddress m) 8 = some [b0, b1, b2, b3, b4, b5, b6, b7] := by
    simp only [State.bytesAt, Nat.add_assoc, Nat.reduceAdd, h0, h1, h2, h3, h4, h5, h6, h7]
  have hread := nvMemRead_of_bytes hfault hmap ((nvMap_wf_iff m).2 hbase) hbytes
  rw [nvOfBytes_eight] at hread
  exact ⟨_, execMrs_of_nvMem_next (accessPath_of_nvMemCondition hcond) hread t, mrsCompleted_setX_advancePc ..⟩

/-- Settles O12, by what the RES0 treatment refuses and what it stores. -/
theorem msrDirectByPolicy : Obligations.MsrDirectByPolicy := by
  intro s t hcond
  have hpath : accessPath s = .direct := accessPath_of_directCondition hcond
  constructor
  · intro hpolicy hone
    exact execMsr_of_direct_refused hpath (by rw [res0Write_eq, if_pos ⟨hpolicy, hone⟩])
  · intro haccepted
    exact ⟨_, execMsr_of_direct_accepted hpath (res0Write_of_accepted haccepted), rfl, rfl, rfl, rfl, fun _ => rfl,
      ⟨rfl, rfl, rfl, rfl⟩, ⟨rfl, rfl, rfl, rfl⟩, fun _ => rfl, rfl, rfl⟩

/-- Settles O14: the store is a run of eight bytes apart from the program text, so each is read back and no other byte
changes. -/
theorem msrNvMemBytesCompletes : Obligations.MsrNvMemBytesCompletes := by
  intro s t m hcond hfault hmap hbase htext
  have hwrite := nvMemWrite_of_bytes hfault hmap ((nvMap_wf_iff m).2 hbase) (Memory.listsAny_eq_false htext) (s.x t)
  refine ⟨_, execMsr_of_nvMem_next (accessPath_of_nvMemCondition hcond) hwrite, ?_, ?_, rfl, rfl, rfl, rfl, rfl,
    fun _ => rfl, ⟨rfl, rfl, rfl, rfl⟩, ⟨rfl, rfl, rfl, rfl⟩⟩
  · intro i hi
    have hlength : i < (nvToBytes m (s.x t)).length := by rwa [length_nvToBytes]
    rw [byteAt_advancePc, byteAt_writeBytes_inside hlength (htext i hi), getElem_nvToBytes]
  · intro a ha
    rw [byteAt_advancePc, byteAt_writeBytes_outside (by rwa [length_nvToBytes])]

/-- Settles O19: on each path the write leaves the path's condition as it was, and what it stored the read returns. -/
theorem readAfterWriteOnOnePath : Obligations.ReadAfterWriteOnOnePath := by
  intro s s1 a b hwrite
  constructor
  · intro hcond
    obtain ⟨w, hw, rfl⟩ := execMsr_next_of_direct (accessPath_of_directCondition hcond) hwrite
    have hcond1 : DirectCondition (State.advancePc { s with hfgwtr2 := w, unsynced := true }) := hcond
    refine ⟨hcond1, rfl, fun _ => rfl, _, execMrs_of_direct (accessPath_of_directCondition hcond1) b, ?_⟩
    rw [x_advancePc, x_setX_self, ← eq_of_res0Write hw]
    exact congrArg (ite (b = 31#5) 0#64) (res0Read_of_res0Write hw)
  · intro hcond
    obtain ⟨u, hu, rfl⟩ := execMsr_next_of_nvMem (accessPath_of_nvMemCondition hcond) hwrite
    obtain ⟨hfault, hstore⟩ := nvMemWrite_next hu
    have hcondu : NvMemCondition u := nvMemCondition_of_nvMemStore hcond hstore
    have hcond1 : NvMemCondition u.advancePc := hcondu
    have hreg : u.hfgwtr2 = s.hfgwtr2 := nvMemStore_hfgwtr2 hstore
    have hread : nvMemRead u.advancePc = .next (s.x a) :=
      (nvMemRead_advancePc u).trans (nvMemRead_of_nvMemStore hfault hstore)
    refine ⟨hcond1, hreg, _,
      execMrs_of_nvMem_next (accessPath_of_nvMemCondition hcond1) hread b, ?_⟩
    rw [x_advancePc, x_setX_self]

/-- Settles O21: at EL0 and EL1 no access is direct. -/
theorem el1AccessIndependentOfRegister : Obligations.El1AccessIndependentOfRegister := by
  intro s i t v hi hlevel
  have hpath : accessPath s ≠ .direct := by
    intro hdirect
    rcases level_of_accessPath_direct hdirect with h | h <;> simp [h] at hlevel
  rw [exec_access_setHfgwtr2 hi hpath v]
  cases exec i s <;> rfl

/-- Settles O9: the value read is the stored register under the RES0 treatment of a read. -/
theorem mrsDirectCompletes : Obligations.MrsDirectCompletes := by
  intro s t hcond
  rw [← res0Read_eq]
  exact ⟨_, execMrs_of_direct (accessPath_of_directCondition hcond) t, mrsCompleted_setX_advancePc ..⟩

/-- Settles O10: the value read is the cell's, which no mask is applied to. -/
theorem mrsNvMemCellCompletes : Obligations.MrsNvMemCellCompletes := by
  intro s t v hcond hfault hmap hcell
  exact ⟨_, execMrs_of_nvMem_next (accessPath_of_nvMemCondition hcond) (nvMemRead_of_cell hfault hmap hcell) t,
    mrsCompleted_setX_advancePc ..⟩

/-- Settles O13: the write sets the cell alone. -/
theorem msrNvMemCellCompletes : Obligations.MsrNvMemCellCompletes := by
  intro s t hcond hfault hmap
  exact ⟨_, execMsr_of_nvMem_next (accessPath_of_nvMemCondition hcond) (nvMemWrite_of_cell hfault hmap (s.x t)),
    rfl, rfl, rfl, rfl, rfl, rfl, fun _ => rfl, fun _ => rfl, ⟨rfl, rfl, rfl, rfl⟩, rfl, rfl, rfl, rfl⟩

/-- Settles O16, by what the trap of an access records. -/
theorem accessTrapsToEL2 : Obligations.AccessTrapsToEL2 := by
  intro s t hcond
  have hpath : accessPath s = .trapEL2 := accessPath_of_trapEL2Condition hcond
  exact ⟨⟨_, execMrs_of_trapEL2 hpath t, accessTrap_entered .el2 t true s⟩,
    ⟨_, execMsr_of_trapEL2 hpath t, accessTrap_entered .el2 t false s⟩⟩

/-- Settles O17, by what the trap of an access records. -/
theorem accessTrapsToEL3 : Obligations.AccessTrapsToEL3 := by
  intro s t hcond
  have hpath : accessPath s = .trapEL3 := accessPath_of_trapEL3Condition hcond
  exact ⟨⟨_, execMrs_of_trapEL3 hpath t, accessTrap_entered .el3 t true s⟩,
    ⟨_, execMsr_of_trapEL3 hpath t, accessTrap_entered .el3 t false s⟩⟩

/-- Settles O18: the entry is to the level of R90's passage, with a free syndrome of class `0x00`. -/
theorem undefinedAccessTaken : Obligations.UndefinedAccessTaken := by
  intro s i t hi hcond
  exact ⟨_, undefinedTarget s, exec_access_of_undefined hi (accessPath_of_undefinedCondition hcond),
    enteredException_takeException_tick .., undefinedTarget_eq s⟩

end Sys2Proof.Machine

/-! # The trapped writes (41_trapped_writes.md)

The check of R70 has one condition, `TrapDue`, that every outcome but "not trapped here" needs; with EL1 and AArch64 state
it is the condition the statements write on the raw inputs. What a write does is then its check's outcome: an entry to EL2
with the class of its row, or one of the two refusals. -/

namespace Sys2Proof.Machine

/-! ## The check (R27, R70, R87) -/

theorem present_iff (s : State) : s.cfg.present = true ↔ Present s := by simp [Config.present, Present]

/-- `Armed(f)` is that the effective value of the field's bit is 0 (R27). -/
theorem armed_iff_effectiveZero (f : TrapField) (s : State) : armed f s = true ↔ EffectiveZero s (fieldBit f) := by
  by_cases hlocked : LockedByEL3 s
  · simp [armed_of_lockedByEL3 hlocked, EffectiveZero, hlocked]
  · simp [armed_of_not_lockedByEL3 hlocked, EffectiveZero, hlocked]

/-- The first four tests of R70 are passed: the trap is due unless a higher-priority exception comes first. -/
def TrapDue (f : TrapField) (s : State) : Prop :=
  Present s ∧ fieldFeature s.cfg f = true ∧ s.inp.el2Enabled = true ∧ armed f s = true

theorem fgt2WriteTrap_of_trapDue {f : TrapField} {s : State} (h : TrapDue f s) :
    fgt2WriteTrap f s = if s.inp.higherPrio then .higherPriority else .trap := by
  obtain ⟨hpresent, hfeature, hel2, harmed⟩ := h
  simp [fgt2WriteTrap, (present_iff s).2 hpresent, hfeature, hel2, harmed]

/-- Each of the first four tests that fails leads to the same outcome. -/
theorem fgt2WriteTrap_of_not_trapDue {f : TrapField} {s : State} (h : ¬ TrapDue f s) :
    fgt2WriteTrap f s = .notTrappedHere := by
  simp only [TrapDue, ← present_iff, not_and_or, Bool.not_eq_true] at h
  obtain habsent | hfeature | hel2 | harmed := h
  · simp [fgt2WriteTrap, habsent]
  · simp [fgt2WriteTrap, hfeature]
  · simp [fgt2WriteTrap, hel2]
  · simp [fgt2WriteTrap, harmed]

/-- The conditions a statement writes on the raw inputs are R70's tests at EL1 in AArch64 state (R87). -/
theorem trapApplies_iff (s : State) (f : TrapField) :
    TrapApplies s (fieldBit f) (fieldFeature · f)
      ↔ TrapDue f s ∧ s.pstate.el = .el1 ∧ s.pstate.aarch64 = true := by
  simp only [TrapApplies, TrapDue, armed_iff_effectiveZero, and_assoc]

theorem writeTrapCheck_of_trapApplies {f : TrapField} {s : State}
    (h : TrapApplies s (fieldBit f) (fieldFeature · f)) :
    writeTrapCheck f s = if s.inp.higherPrio then .higherPriority else .trap := by
  obtain ⟨hdue, hel1, haa64⟩ := (trapApplies_iff s f).1 h
  simp [writeTrapCheck, hel1, haa64, fgt2WriteTrap_of_trapDue hdue]

/-- Nothing is trapped where a condition fails, EL1 and AArch64 state among them (R87). -/
theorem writeTrapCheck_of_not_trapApplies {f : TrapField} {s : State}
    (h : ¬ TrapApplies s (fieldBit f) (fieldFeature · f)) : writeTrapCheck f s = .notTrappedHere := by
  unfold writeTrapCheck
  split
  · next hhere =>
    have hhere' : s.pstate.el = .el1 ∧ s.pstate.aarch64 = true := by simpa using hhere
    exact fgt2WriteTrap_of_not_trapDue fun hdue => h ((trapApplies_iff s f).2 ⟨hdue, hhere'⟩)
  · rfl

/-- A trap that is taken is one whose conditions hold (R70, R87). -/
theorem trapApplies_of_trap {f : TrapField} {s : State} (h : writeTrapCheck f s = .trap) :
    TrapApplies s (fieldBit f) (fieldFeature · f) := by
  by_contra hno
  rw [writeTrapCheck_of_not_trapApplies hno] at h
  cases h

/-! ## The check reads one bit of the register (R27, R87) -/

/-- The fields are bit 0 and bits 2 to 14 (R11). -/
theorem fieldBit_named (f : TrapField) : fieldBit f = 0 ∨ (2 ≤ fieldBit f ∧ fieldBit f ≤ 14) := by
  cases f <;> decide

theorem armed_setHfgwtr2 {f : TrapField} {s : State} {v : Word}
    (h : v.getLsbD (fieldBit f) = s.hfgwtr2.getLsbD (fieldBit f)) : armed f { s with hfgwtr2 := v } = armed f s := by
  simp only [armed, h]

theorem writeTrapCheck_setHfgwtr2 {f : TrapField} {s : State} {v : Word}
    (h : v.getLsbD (fieldBit f) = s.hfgwtr2.getLsbD (fieldBit f)) :
    writeTrapCheck f { s with hfgwtr2 := v } = writeTrapCheck f s := by
  simp only [writeTrapCheck, fgt2WriteTrap, armed_setHfgwtr2 h]

/-! ## What a trapped write does on each outcome (R70, R88) -/

/-- The class a trapped write is reported with (R88, R93). -/
def trapClass : Instr → BitVec 6
  | .msrrRCWSMASK _ => 0x14#6
  | _ => 0x18#6

theorem trapClass_of_not_msrr {i : Instr} (h : ∀ t, i ≠ .msrrRCWSMASK t) : trapClass i = 0x18#6 := by
  unfold trapClass
  split
  · next t => exact absurd rfl (h t)
  · rfl

/-- Each row of the table of R88 has the class of its instruction. -/
theorem trapClass_of_mem_trappedWrites {t : RegNum} {p : Instr × Nat × (Config → Bool) × BitVec 6}
    (h : p ∈ trappedWrites t) : p.2.2.2 = trapClass p.1 := by
  simp only [trappedWrites, List.mem_cons, List.not_mem_nil, or_false] at h
  rcases h with rfl | rfl | rfl | rfl | rfl | rfl | rfl | rfl | rfl | rfl | rfl | rfl | rfl | rfl | rfl <;> rfl

/-- The trap is an entry to EL2, with a syndrome R92 lays out or with a free one (R91, R93). -/
theorem exec_of_trap {i : Instr} {f : TrapField} {s : State} (hf : i.trapField = some f)
    (h : writeTrapCheck f s = .trap) :
    ∃ s', exec i s = .next s' ∧ EnteredException .el2 (trapClass i) s s' := by
  obtain ⟨hmsr, hexec⟩ | ⟨⟨t, rfl⟩, -, hexec⟩ := exec_of_trapField s hf
  · rw [hexec, trappedMsr, h, trapClass_of_not_msrr hmsr]
    exact ⟨_, rfl, enteredException_takeException ..⟩
  · rw [hexec, trappedMsrr, h]
    exact ⟨_, rfl, enteredException_takeException_tick ..⟩

/-- A write that generates a higher-priority exception is outside the spec (R70, decision D14). -/
theorem exec_of_higherPriority {i : Instr} {f : TrapField} {s : State} (hf : i.trapField = some f)
    (h : writeTrapCheck f s = .higherPriority) : exec i s = .refused .higherPriorityExceptionOutsideSpec := by
  obtain ⟨-, hexec⟩ | ⟨-, -, hexec⟩ := exec_of_trapField s hf
  · rw [hexec, trappedMsr, h]
  · rw [hexec, trappedMsrr, h]

/-- The entry's syndrome does not show the register: with the same outcome of the check a write ends in the same way. -/
theorem trappedMsr_setHfgwtr2 {f : TrapField} {s : State} {v : Word}
    (h : writeTrapCheck f { s with hfgwtr2 := v } = writeTrapCheck f s) (t : RegNum) :
    trappedMsr f t { s with hfgwtr2 := v } = withRegister v (trappedMsr f t s) := by
  rw [trappedMsr, trappedMsr, h]
  cases writeTrapCheck f s with
  | trap => exact congrArg Host.Outcome.next (takeException_setHfgwtr2 .el2 _ s v)
  | higherPriority => rfl
  | notTrappedHere => rfl

theorem trappedMsrr_setHfgwtr2 {f : TrapField} {s : State} {v : Word}
    (h : writeTrapCheck f { s with hfgwtr2 := v } = writeTrapCheck f s) :
    trappedMsrr f { s with hfgwtr2 := v } = withRegister v (trappedMsrr f s) := by
  rw [trappedMsrr, trappedMsrr, h]
  cases writeTrapCheck f s with
  | trap => exact congrArg Host.Outcome.next (takeException_setHfgwtr2 .el2 _ s.tick v)
  | higherPriority => rfl
  | notTrappedHere => rfl

theorem exec_trapField_setHfgwtr2 {i : Instr} {f : TrapField} {s : State} {v : Word} (hf : i.trapField = some f)
    (h : writeTrapCheck f { s with hfgwtr2 := v } = writeTrapCheck f s) :
    exec i { s with hfgwtr2 := v } = withRegister v (exec i s) := by
  obtain ⟨hmsr, hexec⟩ | ⟨⟨t, rfl⟩, rfl, hexec⟩ := exec_of_trapField s hf
  · obtain ⟨-, hexec'⟩ | ⟨⟨t, rfl⟩, -⟩ := exec_of_trapField { s with hfgwtr2 := v } hf
    · rw [hexec, hexec', trappedMsr_setHfgwtr2 h]
    · exact absurd rfl (hmsr t)
  · exact trappedMsrr_setHfgwtr2 h

/-! ## The obligations -/

/-- Settles O22: the row's conditions are those of the check, and the trap is an entry with the row's class. -/
theorem trappedWritesComplete : Obligations.TrappedWritesComplete := by
  intro s t p hp happlies hprio
  obtain ⟨f, hf, hbit, hfeat⟩ := trapField_of_mem_trappedWrites hp
  rw [hbit, hfeat] at happlies
  rw [trapClass_of_mem_trappedWrites hp]
  exact exec_of_trap hf (by simp [writeTrapCheck_of_trapApplies happlies, hprio])

/-- Settles O23: the trap is O22's entry, and each refusal is the write's answer to its outcome of the check. -/
theorem trapOutcomesAreR70 : Obligations.TrapOutcomesAreR70 := by
  intro s t p hp
  refine ⟨fun happlies hprio => ?_, ?_⟩
  · obtain ⟨s', hexec, hec, -, -, -, -, hpstate, -, hreg, hregs, hmem, -⟩ :=
      trappedWritesComplete s t p hp happlies hprio
    exact ⟨s', hexec, by rw [hpstate]; rfl, hec, hreg, hregs, hmem⟩
  · obtain ⟨f, hf, hbit, hfeat⟩ := trapField_of_mem_trappedWrites hp
    rw [hbit, hfeat]
    refine ⟨fun happlies hprio => ?_, fun hno => ?_⟩
    · exact exec_of_higherPriority hf (by simp [writeTrapCheck_of_trapApplies happlies, hprio])
    · exact exec_of_notTrappedHere hf (writeTrapCheck_of_not_trapApplies hno)

/-- Settles O24: the check reads the row's own bit, and nothing else of a trapped write reads the register. -/
theorem trapReadsOnlyItsOwnBit : Obligations.TrapReadsOnlyItsOwnBit := by
  intro s t v p hp hsame
  obtain ⟨f, hf, hbit, -⟩ := trapField_of_mem_trappedWrites hp
  rw [hbit] at hsame
  rw [exec_trapField_setHfgwtr2 hf (writeTrapCheck_setHfgwtr2 hsame)]
  cases exec p.1 s <;> rfl

/-- Settles O51: a trap has R70's conditions, EL1 and AArch64 state among them; each field is at a named bit. -/
theorem nothingElseIsTrapped : Obligations.NothingElseIsTrapped := by
  intro s f v
  refine ⟨fun htrap => ?_, fun hsame => ?_, accessPath_setHfgwtr2 s v⟩
  · obtain ⟨-, hhere⟩ := (trapApplies_iff s f).1 (trapApplies_of_trap htrap)
    exact hhere
  · exact writeTrapCheck_setHfgwtr2 (hsame (fieldBit f) (fieldBit_named f))

/-- Settles O52: where the trap is due `higher_prio` decides between two outcomes, and elsewhere there is the third. -/
theorem fgtCheckIsR70 : Obligations.FgtCheckIsR70 := by
  intro s f
  by_cases hdue : TrapDue f s
  · rw [fgt2WriteTrap_of_trapDue hdue]
    obtain ⟨hpresent, hfeature, hel2, harmed⟩ := hdue
    cases hprio : s.inp.higherPrio with
    | true => simp [hpresent, hfeature, hel2, harmed]
    | false => simp [hpresent, hfeature, hel2, harmed]
  · rw [fgt2WriteTrap_of_not_trapDue hdue]
    exact ⟨⟨nofun, fun ⟨hpresent, hfeature, hel2, harmed, _⟩ => absurd ⟨hpresent, hfeature, hel2, harmed⟩ hdue⟩,
      ⟨nofun, fun ⟨hpresent, hfeature, hel2, harmed, _⟩ => absurd ⟨hpresent, hfeature, hel2, harmed⟩ hdue⟩,
      fun _ => hdue, fun _ => rfl⟩

end Sys2Proof.Machine

/-! # Exceptions, and the step between the environment's moves (60_exceptions.md)

An instruction that answers a next state completed or took one exception; `exec_next` says so once, with the level and the
class the exception can have, and the statements about exceptions follow from it. A write behind NVMem leaves everything
the trap check reads, and the answer of a trapped write is its check's outcome. -/

namespace Sys2Proof.Machine

/-! ## What completes an instruction (R64) -/

/-- The instruction completed: PSTATE and the exception registers are unchanged, the program counter is past it. -/
def Completed (s s' : State) : Prop := ExceptionStateKept s s' ∧ s'.pc = s.pc + 4#64

/-- An update that leaves PSTATE, the exception registers and the program counter completes with the advance. -/
theorem completed_advancePc {s u : State} (h : ExceptionStateKept s u) (hpc : u.pc = s.pc) :
    Completed s u.advancePc := ⟨h, congrArg (· + 4#64) hpc⟩

theorem completed_setX_advancePc (t : RegNum) (v : Word) (s : State) : Completed s (s.setX t v).advancePc :=
  completed_advancePc ⟨rfl, rfl, rfl, rfl⟩ rfl

theorem completed_of_nvMemWrite {v : Word} {s u : State} (h : nvMemWrite v s = .next u) :
    Completed s u.advancePc := by
  obtain ⟨-, hstore⟩ := nvMemWrite_next h
  obtain ⟨-, rfl⟩ | ⟨m, -, -, -, rfl⟩ := nvMemStore_next hstore
  · exact completed_advancePc ⟨rfl, rfl, rfl, rfl⟩ rfl
  · exact completed_advancePc ⟨rfl, rfl, rfl, rfl⟩ rfl

theorem completed_of_writeHfgwtr2 {v : Word} {s u : State} (h : writeHfgwtr2 v s = .next u) :
    Completed s u.advancePc := by
  obtain ⟨w, -, rfl⟩ := writeHfgwtr2_next h
  exact completed_advancePc ⟨rfl, rfl, rfl, rfl⟩ rfl

/-! ## Which exception an instruction takes (R90, R91, R93) -/

/-- The target levels and classes of the exceptions an instruction can take: UNDEFINED and the two traps of the accesses,
and the fine-grained trap of the writes that a field traps. -/
inductive Reports (i : Instr) : TargetEL → BitVec 6 → Prop
  | undefined (tgt : TargetEL) (h : i.trapField = none) : Reports i tgt 0x00#6
  | accessToEL2 (h : i.trapField = none) : Reports i .el2 0x18#6
  | accessToEL3 (h : i.trapField = none) : Reports i .el3 0x18#6
  | trappedWrite (f : TrapField) (h : i.trapField = some f) : Reports i .el2 (trapClass i)

/-- The class `0x14` is the MSRR's alone (R93). -/
theorem Reports.class_ne_of_not_msrr {i : Instr} {tgt : TargetEL} {ec : BitVec 6} (h : Reports i tgt ec)
    (hmsr : ∀ t, i ≠ .msrrRCWSMASK t) : ec ≠ 0x14#6 := by
  cases h with
  | undefined => decide
  | accessToEL2 => decide
  | accessToEL3 => decide
  | trappedWrite => rw [trapClass_of_not_msrr hmsr]; decide

theorem Reports.eq_of_msrr {t : RegNum} {tgt : TargetEL} {ec : BitVec 6} (h : Reports (.msrrRCWSMASK t) tgt ec) :
    tgt = .el2 ∧ ec = 0x14#6 := by
  cases h with
  | undefined _ hnone => cases hnone
  | accessToEL2 hnone => cases hnone
  | accessToEL3 hnone => cases hnone
  | trappedWrite => exact ⟨rfl, rfl⟩

/-- The instruction took an exception it can take, to a level not below the current one. -/
def ExceptionTaken (i : Instr) (s s' : State) : Prop :=
  ∃ tgt ec, EnteredException tgt ec s s' ∧ s.pstate.el.rank ≤ tgt.level.rank ∧ Reports i tgt ec

theorem rank_le_undefinedTarget (s : State) : s.pstate.el.rank ≤ (undefinedTarget s).level.rank := by
  obtain ⟨hel3, hel2, hlower⟩ := undefinedTarget_eq s
  cases hel : s.pstate.el with
  | el0 => exact Nat.zero_le _
  | el1 => rw [hlower (.inr hel)]; split <;> decide
  | el2 => rw [hel2 hel]; decide
  | el3 => rw [hel3 hel]; decide

theorem raiseUndefined_taken {i : Instr} (hi : i.trapField = none) (s : State) :
    ExceptionTaken i s (raiseUndefined s) :=
  ⟨undefinedTarget s, 0x00#6, enteredException_takeException_tick .., rank_le_undefinedTarget s, .undefined _ hi⟩

/-- The trap of an access to EL2 comes from EL1 (branch T2 of R60). -/
theorem accessTrap_el2_taken {i : Instr} {s : State} (hi : i.trapField = none) (hpath : accessPath s = .trapEL2)
    (t : RegNum) (isRead : Bool) : ExceptionTaken i s (accessTrap .el2 t isRead s) := by
  obtain ⟨-, hel1, -⟩ := (accessPath_eq_iff s .trapEL2).1 hpath
  obtain ⟨hentered, -⟩ := accessTrap_entered .el2 t isRead s
  exact ⟨.el2, _, hentered, by rw [hel1]; decide, .accessToEL2 hi⟩

/-- The trap of an access to EL3 comes from EL2 (branch T3 of R60). -/
theorem accessTrap_el3_taken {i : Instr} {s : State} (hi : i.trapField = none) (hpath : accessPath s = .trapEL3)
    (t : RegNum) (isRead : Bool) : ExceptionTaken i s (accessTrap .el3 t isRead s) := by
  obtain ⟨-, hel2, -⟩ := (accessPath_eq_iff s .trapEL3).1 hpath
  obtain ⟨hentered, -⟩ := accessTrap_entered .el3 t isRead s
  exact ⟨.el3, _, hentered, by rw [hel2]; decide, .accessToEL3 hi⟩

/-- A write that a field traps answers a next state by its trap alone, which comes from EL1 (R70, R87). -/
theorem exec_trapField_taken {i : Instr} {f : TrapField} {s s' : State} (hf : i.trapField = some f)
    (h : exec i s = .next s') : ExceptionTaken i s s' := by
  have htrap : writeTrapCheck f s = .trap := (exec_next_iff_trap s hf).1 ⟨s', h⟩
  obtain ⟨-, hel1, -⟩ := (trapApplies_iff s f).1 (trapApplies_of_trap htrap)
  obtain ⟨u, hu, hentered⟩ := exec_of_trap hf htrap
  obtain rfl : s' = u := Host.Outcome.next.inj (h.symm.trans hu)
  exact ⟨.el2, _, hentered, by rw [hel1]; decide, .trappedWrite f hf⟩

theorem execMrs_next_cases {t : RegNum} {s s' : State} (h : exec (.mrsHFGWTR2 t) s = .next s') :
    Completed s s' ∨ ExceptionTaken (.mrsHFGWTR2 t) s s' := by
  obtain ⟨-, rfl⟩ | ⟨hpath, rfl⟩ | ⟨hpath, rfl⟩ | ⟨-, v, -, rfl⟩ | ⟨-, rfl⟩ := execMrsHFGWTR2_next h
  · exact .inr (raiseUndefined_taken rfl s)
  · exact .inr (accessTrap_el2_taken rfl hpath t true)
  · exact .inr (accessTrap_el3_taken rfl hpath t true)
  · exact .inl (completed_setX_advancePc ..)
  · exact .inl (completed_setX_advancePc ..)

theorem execMsr_next_cases {t : RegNum} {s s' : State} (h : exec (.msrHFGWTR2 t) s = .next s') :
    Completed s s' ∨ ExceptionTaken (.msrHFGWTR2 t) s s' := by
  obtain ⟨-, rfl⟩ | ⟨hpath, rfl⟩ | ⟨hpath, rfl⟩ | ⟨-, u, hu, rfl⟩ | ⟨-, u, hu, rfl⟩ := execMsrHFGWTR2_next h
  · exact .inr (raiseUndefined_taken rfl s)
  · exact .inr (accessTrap_el2_taken rfl hpath t false)
  · exact .inr (accessTrap_el3_taken rfl hpath t false)
  · exact .inl (completed_of_nvMemWrite hu)
  · exact .inl (completed_of_writeHfgwtr2 hu)

/-- Everything an instruction can do where it answers a next state: an access completes, and any instruction takes an
exception it can take (R91, R94). -/
theorem exec_next {i : Instr} {s s' : State} (h : exec i s = .next s') :
    (Completed s s' ∧ i.trapField = none) ∨ ExceptionTaken i s s' := by
  obtain ⟨t, rfl⟩ | ⟨t, rfl⟩ | ⟨f, hf⟩ := instr_access_or_trapField i
  · exact (execMrs_next_cases h).imp_left fun hdone => ⟨hdone, rfl⟩
  · exact (execMsr_next_cases h).imp_left fun hdone => ⟨hdone, rfl⟩
  · exact .inr (exec_trapField_taken hf h)

/-! ## The answer of a trapped write is its check's outcome (R70) -/

/-- The check reads the configuration, the inputs, PSTATE and the register. -/
theorem writeTrapCheck_congr {s u : State} (hcfg : u.cfg = s.cfg) (hinp : u.inp = s.inp) (hpstate : u.pstate = s.pstate)
    (hreg : u.hfgwtr2 = s.hfgwtr2) (f : TrapField) : writeTrapCheck f u = writeTrapCheck f s := by
  have harmed : armed f u = armed f s := by simp only [armed, hcfg, hinp, hreg]
  have hcheck : fgt2WriteTrap f u = fgt2WriteTrap f s := by simp only [fgt2WriteTrap, hcfg, hinp, harmed]
  rw [writeTrapCheck, writeTrapCheck, hpstate, hcheck]

/-- Each refusal of a trapped write is that of one outcome of the check. -/
theorem exec_refused_iff {i : Instr} {f : TrapField} (s : State) (hf : i.trapField = some f) (r : Refusal) :
    exec i s = .refused r ↔ (writeTrapCheck f s = .higherPriority ∧ r = .higherPriorityExceptionOutsideSpec)
      ∨ (writeTrapCheck f s = .notTrappedHere ∧ r = .untrappedWriteOutsideSpec) := by
  cases hcheck : writeTrapCheck f s with
  | trap =>
    obtain ⟨s', hexec, -⟩ := exec_of_trap hf hcheck
    simp [hexec]
  | higherPriority => simp [exec_of_higherPriority hf hcheck, eq_comm]
  | notTrappedHere => simp [exec_of_notTrappedHere hf hcheck, eq_comm]

/-- A completed write behind NVMem leaves everything the check reads (R62, R101). -/
theorem writeTrapCheck_of_nvMem_write {s s' : State} {t : RegNum} (hcond : NvMemCondition s)
    (h : exec (.msrHFGWTR2 t) s = .next s') (f : TrapField) : writeTrapCheck f s' = writeTrapCheck f s := by
  obtain ⟨u, hu, rfl⟩ := execMsr_next_of_nvMem (accessPath_of_nvMemCondition hcond) h
  obtain ⟨⟨hpstate, -⟩, -⟩ := completed_of_nvMemWrite hu
  obtain ⟨-, hstore⟩ := nvMemWrite_next hu
  obtain ⟨hcfg, hinp, -⟩ := nvMemStore_fixedKept hstore
  have hreg : u.hfgwtr2 = s.hfgwtr2 := nvMemStore_hfgwtr2 hstore
  exact writeTrapCheck_congr (u := u.advancePc) hcfg hinp hpstate hreg f

/-! ## The syndrome of a trapped write (R92) -/

/-- The fields of a packed tuple stand at [15:14], [13:11], [10:7], [6:3] and [2:0] (R51). -/
theorem extractLsb'_packed (e : SysRegEnc) :
    e.packed.extractLsb' 14 2 = e.op0 ∧ e.packed.extractLsb' 11 3 = e.op1 ∧ e.packed.extractLsb' 7 4 = e.crn
      ∧ e.packed.extractLsb' 3 4 = e.crm ∧ e.packed.extractLsb' 0 3 = e.op2 := by
  have hpacked (start len : Nat) : e.packed.extractLsb' start len
      = BitVec.extractLsb' (n := 2 + 3 + 4 + 4 + 3) start len (e.op0 ++ e.op1 ++ e.crn ++ e.crm ++ e.op2) := rfl
  refine ⟨?_, ?_, ?_, ?_, ?_⟩ <;> rw [hpacked]
  · iterate 3 rw [BitVec.extractLsb'_append_eq_of_le (by omega)]
    exact BitVec.extractLsb'_append_eq_left
  · iterate 3 rw [BitVec.extractLsb'_append_eq_of_le (by omega)]
    exact BitVec.extractLsb'_append_eq_right
  · iterate 2 rw [BitVec.extractLsb'_append_eq_of_le (by omega)]
    exact BitVec.extractLsb'_append_eq_right
  · rw [BitVec.extractLsb'_append_eq_of_le (by omega)]
    exact BitVec.extractLsb'_append_eq_right
  · exact BitVec.extractLsb'_append_eq_right

/-- The ISS of R92 shows each field of a supplied tuple. -/
theorem sysRegIss_packed (e : SysRegEnc) (t : RegNum) (isRead : Bool) :
    sysRegIss e.packed t isRead = 0#3 ++ e.op0 ++ e.op2 ++ e.op1 ++ e.crn ++ t ++ e.crm
      ++ (if isRead then 1#1 else 0#1) := by
  obtain ⟨hop0, hop1, hcrn, hcrm, hop2⟩ := extractLsb'_packed e
  rw [sysRegIss, hop0, hop1, hcrn, hcrm, hop2]

theorem targetTuple_of_supplied {s : State} {f : TrapField} {e : SysRegEnc} (h : s.cfg.encOf f = some e) :
    targetTuple f s = e.packed := by simp only [targetTuple, h]

/-! ## The control from EL3 (R102) -/

theorem armed_of_treatedAsZero {s : State} (hlocked : LockedByEL3 s) (h : s.cfg.fgtEn2ZeroMeans = .treatedAsZero)
    (f : TrapField) : armed f s = true := by
  rw [armed_of_lockedByEL3 hlocked, h]
  rfl

theorem accessPath_of_el2_locked {s : State} (hpresent : Present s) (hel2 : s.pstate.el = .el2)
    (hlocked : LockedByEL3 s) :
    accessPath s = if s.inp.sddPrio = true ∨ s.inp.sdd = true then .undefined else .trapEL3 := by
  split
  · next hsdd => exact accessPath_of_undefinedCondition (.inr (.inr (.inr ⟨hel2, hlocked, hsdd⟩)))
  · next hsdd =>
    obtain ⟨hprio, hsdd⟩ := not_or.1 hsdd
    exact accessPath_of_trapEL3Condition
      ⟨hpresent, hel2, hlocked, Bool.eq_false_of_not_eq_true hprio, Bool.eq_false_of_not_eq_true hsdd⟩

/-- Only the EL2 branch of R60 reads `SCR_EL3.FGTEn2`. -/
theorem accessPath_setFgtEn2 {s : State} (h : s.pstate.el ≠ .el2) (b : BitVec 1) :
    accessPath { s with inp := { s.inp with fgtEn2 := b } } = accessPath s := by
  cases hel : s.pstate.el with
  | el0 => simp only [accessPath, hel]
  | el1 => simp only [accessPath, hel]
  | el2 => exact absurd hel h
  | el3 => simp only [accessPath, hel]

theorem not_lockedByEL3_of_enabled {s : State} (h : s.inp.fgtEn2 = 1#1 ∨ s.cfg.haveEL3 = false) :
    ¬ LockedByEL3 s := by
  rintro ⟨hhave, hzero⟩
  obtain hone | hno := h
  · rw [hone] at hzero; cases hzero
  · rw [hno] at hhave; cases hhave

/-! ## The return from an exception (R98) -/

theorem exceptionReturn_of_level {s : State} {tgt : TargetEL} (h : s.pstate.el = tgt.level) :
    exceptionReturn s = returnTo (s.bank tgt) s := by
  cases tgt <;> simp only [exceptionReturn, h, TargetEL.level, State.bank]

theorem returnTo_of_legal {b : ExcBank} {s : State} (hrank : b.spsr.el.rank ≤ s.pstate.el.rank)
    (himpl : s.cfg.implements b.spsr.el = true) :
    returnTo b s = .next { s with pstate := b.spsr, pc := b.elr, unsynced := false } := by
  rw [returnTo, if_pos ⟨hrank, himpl⟩]

/-- The return finds in the target's bank what the entry saved there. -/
theorem exceptionReturn_takeException {s : State} {tgt : TargetEL} (y : Syndrome)
    (hrank : s.pstate.el.rank ≤ tgt.level.rank) (himpl : s.cfg.implements s.pstate.el = true) :
    exceptionReturn (takeException tgt y s)
      = .next { takeException tgt y s with pstate := s.pstate, pc := s.pc, unsynced := false } := by
  have hlevel : (takeException tgt y s).pstate.el = tgt.level := by rw [takeException_pstate]
  rw [exceptionReturn_of_level hlevel, takeException_bank]
  exact returnTo_of_legal (by rw [hlevel]; exact hrank) (by rw [takeException_cfg]; exact himpl)

/-! ## The schedule of a step (R95, decision D22) -/

theorem instructionNext_of_env {s : State} (h : s.env = [] ∨ ∃ es, s.env = .instr :: es) :
    InstructionNext s { s with env := s.env.tail } := by
  obtain hend | ⟨es, hnext⟩ := h
  · exact .inl ⟨hend, by rw [hend, List.tail_nil, ← hend]⟩
  · exact .inr ⟨es, hnext, by rw [hnext, List.tail_cons]⟩

/-! ## The obligations -/

/-- Settles O20: the write behind NVMem leaves the check of every field as it was, and the check decides both a trapped
write's trap and its refusal. -/
theorem nvMemWriteArmsNothing : Obligations.NvMemWriteArmsNothing := by
  intro s s1 a t p hp hcond hwrite
  obtain ⟨f, hf, -⟩ := trapField_of_mem_trappedWrites hp
  have hcheck : writeTrapCheck f s1 = writeTrapCheck f s := writeTrapCheck_of_nvMem_write hcond hwrite f
  constructor
  · rw [exec_next_iff_trap s hf, exec_next_iff_trap s1 hf, hcheck]
  · intro r
    rw [exec_refused_iff s hf, exec_refused_iff s1 hf, hcheck]

/-- Settles O27: the trap records R92's layout of the target's tuple, which is the one supplied. -/
theorem trappedMsrSyndrome : Obligations.TrappedMsrSyndrome := by
  intro s s' i f e hf hmsr henc h
  obtain ⟨-, hexec⟩ | ⟨⟨t, rfl⟩, -⟩ := exec_of_trapField s hf
  · obtain ⟨-, rfl⟩ := trappedMsr_next (hexec ▸ h)
    refine ⟨rfl, rfl, ?_⟩
    rw [targetTuple_of_supplied henc]
    exact sysRegIss_packed e i.rt false
  · exact absurd rfl (hmsr t)

/-- Settles O29: the list of `exec_next`, with the trapped writes told apart by their class. -/
theorem exceptionsThatOccur : Obligations.ExceptionsThatOccur := by
  intro i s s' h
  obtain ⟨⟨hkept, hpc⟩, hnone⟩ | ⟨tgt, ec, hentered, -, hreports⟩ := exec_next h
  · exact .inl ⟨hkept, hpc, hnone⟩
  cases hreports with
  | undefined _ hnone => exact .inr (.inl ⟨tgt, hentered, hnone⟩)
  | accessToEL2 hnone => exact .inr (.inr (.inl ⟨hentered, by rintro t rfl; cases hnone⟩))
  | accessToEL3 hnone => exact .inr (.inr (.inr (.inr ⟨hentered, hnone⟩)))
  | trappedWrite f hf =>
    by_cases hmsrr : ∃ t, i = .msrrRCWSMASK t
    · obtain ⟨t, rfl⟩ := hmsrr
      exact .inr (.inr (.inr (.inl ⟨hentered, t, rfl⟩)))
    · have hmsr : ∀ t, i ≠ .msrrRCWSMASK t := not_exists.1 hmsrr
      rw [trapClass_of_not_msrr hmsr] at hentered
      exact .inr (.inr (.inl ⟨hentered, hmsr⟩))

/-- Settles O30: of the exceptions of `exec_next` the MSRR can take one, and the others have another class. -/
theorem class14IsTheMsrr : Obligations.Class14IsTheMsrr := by
  intro s s' i h
  constructor
  · rintro ⟨t, rfl⟩
    obtain ⟨-, hnone⟩ | ⟨tgt, ec, hentered, -, hreports⟩ := exec_next h
    · cases hnone
    · obtain ⟨rfl, rfl⟩ := hreports.eq_of_msrr
      obtain ⟨hec, -, -, -, -, hpstate, -⟩ := hentered
      exact ⟨by rw [hpstate]; rfl, hec⟩
  · intro hmsr
    obtain ⟨⟨hkept, -⟩, -⟩ | ⟨tgt, ec, hentered, -, hreports⟩ := exec_next h
    · exact .inl hkept
    · obtain ⟨hec, -, -, -, -, hpstate, -⟩ := hentered
      exact .inr ⟨tgt, by rw [hpstate], by rw [hec]; exact hreports.class_ne_of_not_msrr hmsr⟩

/-- Settles O31: a completed instruction keeps PSTATE, and an exception is taken to a level not below the current one. -/
theorem instructionsNeverLowerLevel : Obligations.InstructionsNeverLowerLevel := by
  intro i s s' h
  obtain ⟨⟨⟨hpstate, -⟩, -⟩, -⟩ | ⟨tgt, ec, hentered, hrank, -⟩ := exec_next h
  · rw [hpstate]
  · obtain ⟨-, -, -, -, -, hpstate, -⟩ := hentered
    rw [hpstate]
    exact hrank

/-- Settles O49: each step takes its event off the schedule, so the move is next after the instruction and an instruction
after the move. -/
theorem moveFallsBetweenInstructions : Obligations.MoveFallsBetweenInstructions := by
  intro s s1 s2 m es henv hfirst hsecond
  have henv1 : s1.env = .move m :: .instr :: es := by rw [stepTakesOneEvent s s1 hfirst, henv, List.tail_cons]
  have henv2 : s2.env = .instr :: es := by rw [stepTakesOneEvent s1 s2 hsecond, henv1, List.tail_cons]
  rw [step_of_instr henv] at hfirst
  rw [step_of_move henv1] at hsecond
  obtain ⟨-, hrun⟩ := runInstr_next hfirst
  refine ⟨hrun, hsecond, fun bs i rest haa64 hfetch hdecode => ?_⟩
  rw [step_of_instr henv2]
  exact runInstr_of_decoded haa64 hfetch hdecode

/-- Settles O50, by the two forms of a step that answers a next state. -/
theorem stepIsInstructionOrMove : Obligations.StepIsInstructionOrMove := by
  intro s s' h
  obtain hmove | ⟨hnext, haa64, bs, i, rest, hfetch, hdecode, hexec⟩ := step_next h
  · exact .inl hmove
  · exact .inr ⟨_, bs, i, rest, instructionNext_of_env hnext, haa64, hfetch, hdecode, hexec⟩

/-- Settles O53: the ignore clause and the path at EL2 turn on `LockedByEL3`, and at the other levels no test reads
`SCR_EL3.FGTEn2`. -/
theorem el3ControlIsR102 : Obligations.El3ControlIsR102 := by
  intro s f v b
  refine ⟨fun hlocked => ⟨?_, fun hzero => armed_of_treatedAsZero hlocked hzero f⟩, accessPath_of_el2_locked,
    fun hlevel => ?_, fun henabled => ?_⟩
  · rw [armed_of_lockedByEL3 hlocked]
    exact armed_of_lockedByEL3 (s := { s with hfgwtr2 := v }) hlocked f
  · have hne : s.pstate.el ≠ .el2 := by obtain h | h := hlevel <;> rw [h] <;> decide
    exact accessPath_setFgtEn2 hne b
  · have hunlocked : ¬ LockedByEL3 s := not_lockedByEL3_of_enabled henabled
    exact ⟨armed_of_not_lockedByEL3 hunlocked f,
      fun hpresent hel2 => accessPath_of_directCondition ⟨hpresent, .inr ⟨hel2, hunlocked⟩⟩⟩

/-- Settles O32: the return undoes the entry's PSTATE and program counter, and the entry changed nothing else of what the
statement names. -/
theorem entryThenReturnRestores : Obligations.EntryThenReturnRestores := by
  intro s tgt y hrank himpl
  obtain ⟨-, -, -, -, -, -, -, hreg, hregs, hmem, hfixed⟩ := enteredException_takeException tgt y s
  exact ⟨_, exceptionReturn_takeException y hrank himpl, rfl, rfl, hreg, hregs, hmem, hfixed⟩

end Sys2Proof.Machine
